-- ==== Sys2Proof/Word.lean ====
section
/-! DEFINITION. The widths of the hardware's values (spec 00_scope R7 and R10, 30_encoding R81). -/

namespace Sys2Proof

/-- A memory cell, a general register, a timer, an immediate `NN`, a mediator response byte (R7, R10, R20). -/
abbrev Byte := BitVec 8

/-- The index register, the program counter, a stack entry, an opcode (R28, R31, R32, R80). -/
abbrev Word := BitVec 16

/-- A memory address 0x000 to 0xFFF, and the immediate `NNN` (R7, R81). A wider address cannot be written down,
so no access outside the 4096 cells exists (R50). -/
abbrev Addr := BitVec 12

/-- A general register's number 0 to 15, and the count `N` of DXYN (R20, R81). -/
abbrev Reg := BitVec 4

end Sys2Proof
end

