-- ==== Sys2Proof/WellFormed.lean ====
section
/-! DEFINITION. Which terms of `Instr` stand for an instruction word. Every operand field has exactly its encoding's
width as its type, so the one check left is that a no-op carries a word of the unmatched space (spec 30_encoding R87). -/

namespace Sys2Proof

/-- The unmatched words family by family, as R87's table lists them (not by running the decoder). -/
def unmatchedWord (w : Word) : Bool :=
  let low := w.toNat % 256
  let n := w.toNat % 16
  match w.toNat / 4096 with
  | 0x0 => w != 0x00E0 && w != 0x00EE
  | 0x5 => n != 0
  | 0x8 => [0x8, 0x9, 0xA, 0xB, 0xC, 0xD, 0xF].contains n
  | 0x9 => n != 0
  | 0xE => low != 0x9E && low != 0xA1
  | 0xF => !([0x07, 0x0A, 0x15, 0x18, 0x1E, 0x29, 0x33, 0x55, 0x65].contains low)
  | _ => false

/-- The check: only a no-op can be ill-formed, by carrying a word that is one of the 34 instructions. -/
def Instr.wellFormed : Instr → Bool
  | .nop w => unmatchedWord w
  | .cls | .ret | .jp _ | .call _ | .seImm _ _ | .sneImm _ _ | .seReg _ _ | .ldImm _ _ | .addImm _ _ | .ldReg _ _
  | .or _ _ | .and _ _ | .xor _ _ | .addReg _ _ | .sub _ _ | .shr _ _ | .subn _ _ | .shl _ _ | .sneReg _ _ | .ldI _
  | .jpV0 _ | .rnd _ _ | .drw _ _ _ | .skp _ | .sknp _ | .ldVxDt _ | .ldVxK _ | .ldDtVx _ | .ldStVx _ | .addI _
  | .ldF _ | .ldB _ | .ldMemVx _ | .ldVxMem _ => true

end Sys2Proof
end

