-- ==== Sys2Proof/Decode.lean ====
section
/-! DEFINITION. The decoder (spec 30_encoding R81 and R84), the opcode map as data (R86), the encoder (R82), and the
host's view of the decoder. The two copies of the encoding, the procedure of R84 and the masks of R86, are written
apart so that a statement can compare them. -/

namespace Sys2Proof

/-! ## Fields of the opcode word (R81) -/

/-- The family, `opcode[15:12]`. -/
def fieldF (w : Word) : BitVec 4 := w.extractLsb' 12 4
/-- `opcode[11:8]`. -/
def fieldX (w : Word) : Reg := w.extractLsb' 8 4
/-- `opcode[7:4]`. -/
def fieldY (w : Word) : Reg := w.extractLsb' 4 4
/-- `opcode[3:0]`. -/
def fieldN (w : Word) : BitVec 4 := w.extractLsb' 0 4
/-- `opcode[7:0]`. -/
def fieldNN (w : Word) : Byte := w.extractLsb' 0 8
/-- `opcode[11:0]`. -/
def fieldNNN (w : Word) : Addr := w.extractLsb' 0 12

/-! ## Decoding (R84) -/

/-- Family 8: the sub-opcode is N. -/
def decodeFamily8 (w : Word) : Instr :=
  let x := fieldX w
  let y := fieldY w
  match (fieldN w).toNat with
  | 0x0 => .ldReg x y
  | 0x1 => .or x y
  | 0x2 => .and x y
  | 0x3 => .xor x y
  | 0x4 => .addReg x y
  | 0x5 => .sub x y
  | 0x6 => .shr x y
  | 0x7 => .subn x y
  | 0xE => .shl x y
  | _ => .nop w

/-- Family E: the sub-opcode is NN. -/
def decodeFamilyE (w : Word) : Instr :=
  match (fieldNN w).toNat with
  | 0x9E => .skp (fieldX w)
  | 0xA1 => .sknp (fieldX w)
  | _ => .nop w

/-- Family F: the sub-opcode is NN. -/
def decodeFamilyF (w : Word) : Instr :=
  let x := fieldX w
  match (fieldNN w).toNat with
  | 0x07 => .ldVxDt x
  | 0x0A => .ldVxK x
  | 0x15 => .ldDtVx x
  | 0x18 => .ldStVx x
  | 0x1E => .addI x
  | 0x29 => .ldF x
  | 0x33 => .ldB x
  | 0x55 => .ldMemVx x
  | 0x65 => .ldVxMem x
  | _ => .nop w

/-- `decode(opcode)` of R84: total on all 65536 words, a word of no pattern being the no-op. -/
def decodeWord (w : Word) : Instr :=
  let x := fieldX w
  let y := fieldY w
  match (fieldF w).toNat with
  | 0x0 => if w = 0x00E0 then .cls else if w = 0x00EE then .ret else .nop w
  | 0x1 => .jp (fieldNNN w)
  | 0x2 => .call (fieldNNN w)
  | 0x3 => .seImm x (fieldNN w)
  | 0x4 => .sneImm x (fieldNN w)
  | 0x5 => if fieldN w = 0 then .seReg x y else .nop w
  | 0x6 => .ldImm x (fieldNN w)
  | 0x7 => .addImm x (fieldNN w)
  | 0x8 => decodeFamily8 w
  | 0x9 => if fieldN w = 0 then .sneReg x y else .nop w
  | 0xA => .ldI (fieldNNN w)
  | 0xB => .jpV0 (fieldNNN w)
  | 0xC => .rnd x (fieldNN w)
  | 0xD => .drw x y (fieldN w)
  | 0xE => decodeFamilyE w
  | _ => decodeFamilyF w

/-! ## From bytes (R51, R80) -/

/-- Big-endian: the byte at the lower address is `opcode[15:8]`, the byte at the higher address is `opcode[7:0]`
(R51). -/
def wordOfBytes (hi lo : Byte) : Word := BitVec.ofNat 16 (hi.toNat * 2 ^ 8 + lo.toNat)

/-- The byte that stands at the lower address (R51). -/
def highByte (w : Word) : Byte := w.extractLsb' 8 8

/-- The byte that stands at the higher address (R51). -/
def lowByte (w : Word) : Byte := w.extractLsb' 0 8

/-- Why a list of bytes gives no instruction. No word is rejected (R87). -/
inductive DecodeError
  /-- Fewer than the two bytes of an instruction (R80) were given; the hardware's own fetch always gives two. -/
  | truncated
  deriving DecidableEq, Repr

/-- One instruction read from the front of a byte list, and the bytes after it. -/
inductive Decoded
  | ok (i : Instr) (rest : List Byte)
  | rejected (why : DecodeError)
  deriving DecidableEq, Repr

/-- The decoder on bytes: total on every list. -/
def decode : List Byte → Decoded
  | hi :: lo :: rest => .ok (decodeWord (wordOfBytes hi lo)) rest
  | [_] => .rejected .truncated
  | [] => .rejected .truncated

/-! ## Encoding (R82) -/

/-- Format A: the family in bits 15:12, NNN in bits 11:0. -/
def formatA (f : Nat) (nnn : Addr) : Word := BitVec.ofNat 16 (f * 2 ^ 12 + nnn.toNat)
/-- Format XI: the family in bits 15:12, X in 11:8, NN in 7:0. Format XS is the same, NN being the sub-opcode. -/
def formatXI (f : Nat) (x : Reg) (nn : Byte) : Word := BitVec.ofNat 16 (f * 2 ^ 12 + x.toNat * 2 ^ 8 + nn.toNat)
/-- Format XYN: the family in bits 15:12, X in 11:8, Y in 7:4, N in 3:0. Format XY is the same, N being the
sub-opcode. -/
def formatXYN (f : Nat) (x y : Reg) (n : BitVec 4) : Word :=
  BitVec.ofNat 16 (f * 2 ^ 12 + x.toNat * 2 ^ 8 + y.toNat * 2 ^ 4 + n.toNat)

/-- The word of an instruction, from the patterns of R86 and the layouts of R82. -/
def encode : Instr → Word
  | .cls => 0x00E0
  | .ret => 0x00EE
  | .jp nnn => formatA 0x1 nnn
  | .call nnn => formatA 0x2 nnn
  | .seImm x nn => formatXI 0x3 x nn
  | .sneImm x nn => formatXI 0x4 x nn
  | .seReg x y => formatXYN 0x5 x y 0x0
  | .ldImm x nn => formatXI 0x6 x nn
  | .addImm x nn => formatXI 0x7 x nn
  | .ldReg x y => formatXYN 0x8 x y 0x0
  | .or x y => formatXYN 0x8 x y 0x1
  | .and x y => formatXYN 0x8 x y 0x2
  | .xor x y => formatXYN 0x8 x y 0x3
  | .addReg x y => formatXYN 0x8 x y 0x4
  | .sub x y => formatXYN 0x8 x y 0x5
  | .shr x y => formatXYN 0x8 x y 0x6
  | .subn x y => formatXYN 0x8 x y 0x7
  | .shl x y => formatXYN 0x8 x y 0xE
  | .sneReg x y => formatXYN 0x9 x y 0x0
  | .ldI nnn => formatA 0xA nnn
  | .jpV0 nnn => formatA 0xB nnn
  | .rnd x nn => formatXI 0xC x nn
  | .drw x y n => formatXYN 0xD x y n
  | .skp x => formatXI 0xE x 0x9E
  | .sknp x => formatXI 0xE x 0xA1
  | .ldVxDt x => formatXI 0xF x 0x07
  | .ldVxK x => formatXI 0xF x 0x0A
  | .ldDtVx x => formatXI 0xF x 0x15
  | .ldStVx x => formatXI 0xF x 0x18
  | .addI x => formatXI 0xF x 0x1E
  | .ldF x => formatXI 0xF x 0x29
  | .ldB x => formatXI 0xF x 0x33
  | .ldMemVx x => formatXI 0xF x 0x55
  | .ldVxMem x => formatXI 0xF x 0x65
  | .nop w => w

/-- The instruction's two bytes as memory holds them (R51, R80). -/
def encodeBytes (i : Instr) : List Byte := [highByte (encode i), lowByte (encode i)]

/-! ## The opcode map as data (R86) -/

/-- One row's mask and match. -/
structure OpcodeRow where
  mask : Word
  pattern : Word
  deriving DecidableEq, Repr

/-- A word is a row's instruction exactly when `w & mask = match` (R86). -/
def OpcodeRow.covers (r : OpcodeRow) (w : Word) : Bool := w &&& r.mask == r.pattern

/-- The row of each instruction, as R86's table prints its mask and match (the no-op's row is all zeros, lowest
priority). -/
def Instr.row : Instr → OpcodeRow
  | .cls => ⟨0xFFFF, 0x00E0⟩
  | .ret => ⟨0xFFFF, 0x00EE⟩
  | .jp _ => ⟨0xF000, 0x1000⟩
  | .call _ => ⟨0xF000, 0x2000⟩
  | .seImm _ _ => ⟨0xF000, 0x3000⟩
  | .sneImm _ _ => ⟨0xF000, 0x4000⟩
  | .seReg _ _ => ⟨0xF00F, 0x5000⟩
  | .ldImm _ _ => ⟨0xF000, 0x6000⟩
  | .addImm _ _ => ⟨0xF000, 0x7000⟩
  | .ldReg _ _ => ⟨0xF00F, 0x8000⟩
  | .or _ _ => ⟨0xF00F, 0x8001⟩
  | .and _ _ => ⟨0xF00F, 0x8002⟩
  | .xor _ _ => ⟨0xF00F, 0x8003⟩
  | .addReg _ _ => ⟨0xF00F, 0x8004⟩
  | .sub _ _ => ⟨0xF00F, 0x8005⟩
  | .shr _ _ => ⟨0xF00F, 0x8006⟩
  | .subn _ _ => ⟨0xF00F, 0x8007⟩
  | .shl _ _ => ⟨0xF00F, 0x800E⟩
  | .sneReg _ _ => ⟨0xF00F, 0x9000⟩
  | .ldI _ => ⟨0xF000, 0xA000⟩
  | .jpV0 _ => ⟨0xF000, 0xB000⟩
  | .rnd _ _ => ⟨0xF000, 0xC000⟩
  | .drw _ _ _ => ⟨0xF000, 0xD000⟩
  | .skp _ => ⟨0xF0FF, 0xE09E⟩
  | .sknp _ => ⟨0xF0FF, 0xE0A1⟩
  | .ldVxDt _ => ⟨0xF0FF, 0xF007⟩
  | .ldVxK _ => ⟨0xF0FF, 0xF00A⟩
  | .ldDtVx _ => ⟨0xF0FF, 0xF015⟩
  | .ldStVx _ => ⟨0xF0FF, 0xF018⟩
  | .addI _ => ⟨0xF0FF, 0xF01E⟩
  | .ldF _ => ⟨0xF0FF, 0xF029⟩
  | .ldB _ => ⟨0xF0FF, 0xF033⟩
  | .ldMemVx _ => ⟨0xF0FF, 0xF055⟩
  | .ldVxMem _ => ⟨0xF0FF, 0xF065⟩
  | .nop _ => ⟨0x0000, 0x0000⟩

/-- The 34 rows above the no-op's, each named by an instruction that stands on it, in R86's order. -/
def opcodeMap : List OpcodeRow :=
  [Instr.cls, .ret, .jp 0, .call 0, .seImm 0 0, .sneImm 0 0, .seReg 0 0, .ldImm 0 0, .addImm 0 0, .ldReg 0 0, .or 0 0,
    .and 0 0, .xor 0 0, .addReg 0 0, .sub 0 0, .shr 0 0, .subn 0 0, .shl 0 0, .sneReg 0 0, .ldI 0, .jpV0 0, .rnd 0 0,
    .drw 0 0 0, .skp 0, .sknp 0, .ldVxDt 0, .ldVxK 0, .ldDtVx 0, .ldStVx 0, .addI 0, .ldF 0, .ldB 0, .ldMemVx 0,
    .ldVxMem 0].map Instr.row

/-! ## The host's view -/

/-- The word whose low `nbits` bits are `w`'s and whose other bits are 0. -/
def tableWord (nbits w : Nat) : Word := BitVec.ofNat 16 (w % 2 ^ nbits)

/-- The instruction the decoder reads from the two bytes of a table word, laid out big-endian. An instruction is one
16-bit word (R80), so a longer one is none of this hardware's. -/
def decodeTableWord (nbits w : Nat) : Option Instr :=
  if nbits ≤ 16 ∧ w < 2 ^ nbits then
    match decode [highByte (tableWord nbits w), lowByte (tableWord nbits w)] with
    | .ok i [] => some i
    | .ok _ (_ :: _) => none
    | .rejected _ => none
  else none

end Sys2Proof
end

