-- ==== Sys2Proof/Config.lean ====
section
/-! DEFINITION. The free values: what the world outside the CORE answers where nothing in `State` says so.
The implementation parameters of spec 00_scope R7 to R13 that a rule uses stand in Machine/Params.lean and
Machine/Font.lean. -/

namespace Sys2Proof

/-- The mediator's answer to the request with this serial number, where it is a key (R193, R195): any byte. It is
not bounded by the contract's 0x00 to 0x10 (assumption 6); Safety.lean states the contract as a premise. -/
opaque Config.freeKey : Nat → Byte

/-- The mediator's answer to the request with this serial number, where it is a random byte (R194, decision D25):
any byte, with no law relating two requests (assumption 5). -/
opaque Config.freeRandom : Nat → Byte

/-- The mediator's answer to the request with this serial number, where it is the collision bit (R192, R195):
either bit (assumption 5). -/
opaque Config.freeCollision : Nat → Bool

end Sys2Proof
end

