-- ==== Sys2Proof/Machine/Params.lean ====
section
/-! DEFINITION. The implementation parameters of spec 00_scope R7 to R13 that a rule of the CORE reads. `TICK_HZ`,
`INSTR_PER_TICK` (R13) are the driver's and no rule reads them; `DISPLAY_W`, `DISPLAY_H` (R12) are the reference
mediator's (RefMediator.lean). -/

namespace Sys2Proof.Machine

/-- `LOAD_BASE`, where `pc` starts and where `fetch` wraps to (R8, R41). -/
def loadBase : Word := 0x200

/-- `LOAD_CEIL`, the first address a program may not be loaded to or fetched from (R8). -/
def loadCeil : Nat := 0xE8F

/-- `FONT_BASE` (R9). -/
def fontBase : Word := 0x000

/-- `FONT_GLYPH_BYTES` (R9). -/
def fontGlyphBytes : Word := 5

/-- `FONT_BYTES` (R9). -/
def fontBytes : Nat := 80

/-- `SP_MAX`, the largest value the stack pointer takes (R10, decision D6). -/
def spMax : Fin 16 := 15

/-- `KEY_NONE`, the "not pressed" sentinel (R11). -/
def keyNone : Byte := 0x10

end Sys2Proof.Machine
end

