-- ==== Sys2Proof/Machine/State.lean ====
section
/-! DEFINITION. The machine's state as plain data (spec 10_state R20 to R47), what stands outside the CORE and meets
it at its two interfaces (00_scope R14 to R17), and the two reasons a step can stop. -/

namespace Sys2Proof.Machine

/-- A request of the CORE to the mediator, with the payload it sends (R15). -/
inductive Request
  /-- Sent by 00E0 (R191). -/
  | clearDisplay
  /-- Sent by DXYN (R192). -/
  | drawSprite (x y : Byte) (bytes : List Byte)
  /-- Sent by EX9E, EXA1 and FX0A (R193). -/
  | getCurrentKey
  /-- Sent by CXNN (R194). -/
  | getRandomByte
  deriving DecidableEq, Repr

/-- A command of the driver. The six of R14, and `step`, which is `execute(fetch())` with nothing between (R106). -/
inductive Command
  | step
  | fetch
  | execute (w : Word)
  | tickTimers
  | reset
  | loadBytes (base : Word) (bytes : List Byte)
  | loadProgram (readable : Bool) (bytes : List Byte)
  deriving DecidableEq, Repr

/-- What an outside observer sees happen: the mediator requests with their payloads, and the results the commands give
the driver (R17). -/
inductive Event
  /-- The CORE made a request (R195). -/
  | request (r : Request)
  /-- A free-standing `fetch` returned this opcode (R101). -/
  | fetched (w : Word)
  /-- A load command returned ok (R62, R63). -/
  | loadOk
  /-- A load command returned fail (R254). -/
  | loadFail
  deriving DecidableEq, Repr

/-- What stands outside the CORE, as the inputs a step reads and the record it leaves. None of it is hardware state
(R33, R35): these seven fields are the MODEL'S OWN (assumptions 4, 5, 7 and 8). -/
structure Env where
  /-- The driver's pending commands, the next one first; with none pending a step is `execute(fetch())` (R14, R106). -/
  driver : List Command
  /-- The mediator's answers to the next `getCurrentKey` requests, in order; after them, free values (R195). -/
  keys : List Byte
  /-- The mediator's answers to the next `getRandomByte` requests, in order; after them, free values (R195). -/
  randoms : List Byte
  /-- The mediator's answers to the next `drawSprite` requests, in order; after them, free values (R195). -/
  collisions : List Bool
  /-- How many more requests the mediator answers before it falls silent for good; `none`: it answers every one, which is
  its duty (R105, R250). -/
  answersLeft : Option Nat
  /-- How many requests have been made: the serial number a free value is applied to. -/
  asked : Nat
  /-- The observable trace, oldest event first (R17, R195). -/
  trace : List Event
  deriving DecidableEq, Repr

/-- Memory's listed bytes: address and value, in the canonical form of `Memory.wf` (Machine/Ops.lean). -/
abbrev Memory := List Host.Cell

/-- The whole state: the tuple that opens 10_state.md, and the outside. -/
structure State where
  /-- `V[0]` to `V[15]`, `V[15]` being VF (R20, R24). -/
  v : Vector Byte 16
  /-- `I`, all 16 bits of it (R31). -/
  i : Word
  /-- The program counter (R28). -/
  pc : Word
  /-- The stack pointer, an integer 0 to 15 (R32, decision D22). -/
  sp : Fin 16
  /-- `stack[0..15]`, the return addresses; not in memory (R32). -/
  stack : Vector Word 16
  /-- The delay timer (R33). -/
  dt : Byte
  /-- The sound timer (R33). -/
  st : Byte
  /-- `mem[0..4095]` (R34). -/
  mem : Memory
  /-- The outside (not hardware state). -/
  env : Env
  deriving DecidableEq, Repr

/-- Why a step has no next state. "The CORE raises none" (R240), and no access outside memory can be written down
(`Addr`), so the one reason is the outside's: a step that never completes. -/
inductive Fault
  /-- The step is stuck in this request: the mediator never answers it, so the `execute` never returns (R105,
  assumption 7). Raised by the six instructions that make a request, 00E0, CXNN, DXYN, EX9E, EXA1 and FX0A, where
  `Env.silent` holds, and by nothing else. Safe: no state is claimed for a step that does not end. -/
  | mediatorSilent (r : Request)
  deriving DecidableEq, Repr

/-- Why a step has no meaning. -/
inductive Refusal
  /-- The instruction has no meaning in this model yet. Every instruction has one, so no arm of `exec` raises it.
  Safe: a refusal proves nothing. -/
  | notModelled (mnemonic : String)
  deriving DecidableEq, Repr

/-- The outside at reset: nothing pending, nothing scripted, a mediator that answers, nothing seen. DESIGN CHOICE,
assumptions 4, 5, 7 and 8: no statement rests on it. -/
def Env.initial : Env :=
  { driver := [], keys := [], randoms := [], collisions := [], answersLeft := none, asked := 0, trace := [] }

/-- The state after `reset()` (R40 to R45, R270). Memory lists nothing, so every address reads as its reset contents
(R42). It is also the first state of a run (R46, R273: decision D2, assumption 2). -/
def State.reset : State :=
  { v := Vector.replicate 16 0
    i := 0x0000
    pc := loadBase
    sp := 0
    stack := Vector.replicate 16 0
    dt := 0x00
    st := 0x00
    mem := []
    env := Env.initial }

end Sys2Proof.Machine
end

