-- ==== Sys2Proof/Machine/Ops.lean ====
section
/-! DEFINITION. The named operations over registers, memory, the call stack, the timers and the mediator, each from
the rule that gives it. The hardware has no exception, so there is no exception entry and no return from one to model
(spec 60_exceptions R240 to R244). -/

namespace Sys2Proof.Machine

/-! ## Registers (10_state R20 to R33); the reads and writes here are also the driver's getters and setters (R252) -/

/-- `V[x]` (R20). No register is hard-wired or banked. -/
def State.readV (s : State) (x : Reg) : Byte := s.v[x.toNat]

/-- `V[x] <- b` (R20). -/
def State.setV (s : State) (x : Reg) (b : Byte) : State := { s with v := s.v.set x.toNat b }

/-- `I <- w` (R31). -/
def State.setI (s : State) (w : Word) : State := { s with i := w }

/-- `pc <- w` (R29). -/
def State.setPc (s : State) (w : Word) : State := { s with pc := w }

/-- `dt <- b` (R33). -/
def State.setDt (s : State) (b : Byte) : State := { s with dt := b }

/-- `st <- b` (R33). -/
def State.setSt (s : State) (b : Byte) : State := { s with st := b }

/-! ## The program counter -/

/-- E1 of `execute`: `pc <- (pc + 2) mod 65536` (40_cycle R103). -/
def State.advance (s : State) : State := s.setPc (s.pc + 2)

/-- The skip action, a further +2 (42_skip R140). -/
def State.skip (s : State) : State := s.setPc (s.pc + 2)

/-- A conditional skip (R141 to R144, R199, R200). -/
def State.skipIf (s : State) (c : Bool) : State := if c then s.skip else s

/-- The undoing of E1 by a waiting FX0A: `pc <- (pc - 2) mod 65536` (45_mediator_ops R201). -/
def State.stay (s : State) : State := s.setPc (s.pc - 2)

/-! ## Memory (20_memory R50 to R58) -/

/-- The listed byte at an address, if any. -/
def Memory.find : Memory → Nat → Option Byte
  | [], _ => none
  | (k, b) :: m, a => if k = a then some b else Memory.find m a

/-- The list without any entry for an address. -/
def Memory.drop : Memory → Nat → Memory
  | [], _ => []
  | (k, b) :: m, a => if k = a then Memory.drop m a else (k, b) :: Memory.drop m a

/-- The list with an address listed, in its place by address. -/
def Memory.put : Memory → Nat → Byte → Memory
  | [], a, b => [(a, b)]
  | (k, c) :: m, a, b =>
    if a < k then (a, b) :: (k, c) :: m else if a = k then (a, b) :: m else (k, c) :: Memory.put m a b

/-- `MemRead(a, 1)`: the last value written, else the reset contents (R50, R42). -/
def Memory.read (m : Memory) (a : Addr) : Byte := (Memory.find m a.toNat).getD (resetByte a.toNat)

/-- `MemWrite(a, 1, b)`: that one cell and nothing else (R50). A byte equal to what the address reads as when it is
not listed is not listed, so that equal memories are equal lists. No region is write-protected (R57). -/
def Memory.write (m : Memory) (a : Addr) (b : Byte) : Memory :=
  if b = resetByte a.toNat then Memory.drop m a.toNat else Memory.put m a.toNat b

/-- The canonical form: addresses strictly rising from `lo` on and below 4096, no entry equal to what its address reads
as when it is not listed. -/
def Memory.wfFrom : Nat → Memory → Bool
  | _, [] => true
  | lo, (k, b) :: m => decide (lo ≤ k) && decide (k < 4096) && decide (b ≠ resetByte k) && Memory.wfFrom (k + 1) m

/-- The canonical form of the whole list. -/
def Memory.wf (m : Memory) : Bool := Memory.wfFrom 0 m

/-- One byte of memory. -/
def State.readMem (s : State) (a : Addr) : Byte := Memory.read s.mem a

/-- One byte to memory. -/
def State.writeMem (s : State) (a : Addr) (b : Byte) : State := { s with mem := Memory.write s.mem a b }

/-- The bytes of a load command, copied in order from `base` on (R62). The caller has checked the ceiling, so no
address is cut. -/
def State.copyBytes (s : State) (base : Nat) : List Byte → State
  | [] => s
  | b :: bs => State.copyBytes (s.writeMem (BitVec.ofNat 12 base) b) (base + 1) bs

/-! ## The call stack (41_control R120, R121; decision D6, assumption 13) -/

/-- The entry at an index. -/
def State.stackAt (s : State) (k : Fin 16) : Word := s.stack[k.val]

/-- `pushCall(addr)`: store at `sp`, then advance `sp` unless it is 15 (R120). -/
def State.pushCall (s : State) (addr : Word) : State :=
  { s with stack := s.stack.set s.sp.val addr, sp := if s.sp < spMax then s.sp + 1 else s.sp }

/-- The stack pointer after a pop: decremented unless it is 0 (R121). -/
def State.spAfterPop (s : State) : Fin 16 := if 0 < s.sp then s.sp - 1 else s.sp

/-- The address `popCall()` returns: the entry at the new `sp`, which is not cleared (R121). -/
def State.poppedAddr (s : State) : Word := s.stackAt s.spAfterPop

/-- The state `popCall()` leaves (R121). -/
def State.popCall (s : State) : State := { s with sp := s.spAfterPop }

/-! ## The timers (60_exceptions R246) -/

/-- One timer's tick: minus 1 if it is not 0, and 0 stays 0. -/
def tickByte (b : Byte) : Byte := if b = 0 then 0 else b - 1

/-- `tickTimers()` (R246). -/
def State.tickTimers (s : State) : State := { s with dt := tickByte s.dt, st := tickByte s.st }

/-! ## The mediator (45_mediator_ops R190 to R195) -/

/-- One more event at the end of the trace (R17). -/
def State.emit (s : State) (e : Event) : State :=
  { s with env := { s.env with trace := s.env.trace ++ [e] } }

/-- The mediator answers no request any more (R105). -/
def Env.silent (e : Env) : Bool := e.answersLeft == some 0

/-- The outside after an answered request: it stands in the trace, and the answer to it, if one was pending, is used
up. -/
def Env.afterRequest (e : Env) (r : Request) : Env :=
  let seen := { e with
    answersLeft := e.answersLeft.map (· - 1)
    asked := e.asked + 1
    trace := e.trace ++ [.request r] }
  match r with
  | .clearDisplay => seen
  | .drawSprite _ _ _ => { seen with collisions := e.collisions.tail }
  | .getCurrentKey => { seen with keys := e.keys.tail }
  | .getRandomByte => { seen with randoms := e.randoms.tail }

/-- The state after an answered request: nothing of the CORE changes (R190). -/
def State.request (s : State) (r : Request) : State := { s with env := s.env.afterRequest r }

/-- The answer to a `getCurrentKey` made now: the pending one, else a free value (R193, R195). -/
def State.keyAnswer (s : State) : Byte := s.env.keys.headD (Config.freeKey s.env.asked)

/-- The answer to a `getRandomByte` made now: the pending one, else a free value (R194, R195). -/
def State.randomAnswer (s : State) : Byte := s.env.randoms.headD (Config.freeRandom s.env.asked)

/-- The answer to a `drawSprite` made now: the pending one, else a free value (R192, R195). -/
def State.collisionAnswer (s : State) : Bool := s.env.collisions.headD (Config.freeCollision s.env.asked)

/-- A request inside an `execute`: with an answer the instruction finishes on the state after the request, before it no
state but `pc` having been written; without one the step never completes, and no answer is made up (R105, R190). -/
def State.ask (s : State) (r : Request) (finish : State → State) : Host.Outcome State Fault Refusal :=
  if s.env.silent then .fault (.mediatorSilent r) else .next (finish (s.request r))

end Sys2Proof.Machine
end

