-- ==== Sys2Proof/Machine/Flags.lean ====
section
/-! DEFINITION. The flag register VF: the five flag computations of the arithmetic family (spec 43_alu R157 to R161,
10_state R24 and R25) and the one way a flag is written. -/

namespace Sys2Proof.Machine

/-- VF is `V[15]` (R24). -/
def vf : Reg := 15

/-- "`setFlag(bool)` writes 0x01/0x00 into V[0xF]" (R24). -/
def flagByte (c : Bool) : Byte := if c then 0x01 else 0x00

/-- The flag write (R24). -/
def State.setFlag (s : State) (c : Bool) : State := s.setV vf (flagByte c)

/-- Result to `V[x]` first, flag to VF second, so that with `x` = 15 the flag remains (R150, decision D9). -/
def State.setResult (s : State) (x : Reg) (r : Byte) (f : Bool) : State := (s.setV x r).setFlag f

/-- The carry of `a + b`: the sum is above 255 (R157). -/
def carry (a b : Byte) : Bool := decide (255 < a.toNat + b.toNat)

/-- The borrow of `p - q`: `p < q`, the borrow itself and not its complement (R158, R160). -/
def borrow (p q : Byte) : Bool := decide (p.toNat < q.toNat)

/-- The bit SHR shifts out, `b[0]` (R159). -/
def shiftedOutLow (b : Byte) : Bool := b.getLsbD 0

/-- The bit SHL shifts out, `b[7]` (R161). -/
def shiftedOutHigh (b : Byte) : Bool := b.getLsbD 7

end Sys2Proof.Machine
end

