-- ==== Sys2Proof/Machine/Operands.lean ====
section
/-! DEFINITION. The operand forms: immediates (spec 30_encoding R83), the one effective address (20_memory R56,
44_index_memory R176), the register blocks of FX55 and FX65, the digits of FX33 and the payload of DXYN. -/

namespace Sys2Proof.Machine

/-- `zext_16(NNN)` (R83). -/
def zextAddr (nnn : Addr) : Word := nnn.setWidth 16

/-- `zext_16` of a byte (R83). -/
def zextByte (b : Byte) : Word := b.setWidth 16

/-- `zext_8(b[3:0])`, the key index a register names (R199). -/
def lowNibble (b : Byte) : Byte := (b.extractLsb' 0 4).setWidth 8

/-- `EA(k) = (zext_16(I) + k) mod 4096` (R56). The wrap is the spec's decision D7: DESIGN CHOICE, assumption 3. -/
def State.ea (s : State) (k : Nat) : Addr := BitVec.ofNat 12 (s.i.toNat + k)

/-- The hundreds of a byte (R173). -/
def hundreds (b : Byte) : Byte := BitVec.ofNat 8 (b.toNat / 100)
/-- The tens of a byte (R173). -/
def tens (b : Byte) : Byte := BitVec.ofNat 8 (b.toNat / 10 % 10)
/-- The ones of a byte (R173). -/
def ones (b : Byte) : Byte := BitVec.ofNat 8 (b.toNat % 10)

/-- `MemWrite(EA(k), 1, V[k])` for the first `n` values of `k`, ascending (R174). -/
def State.storeRegs (s : State) : Nat → State
  | 0 => s
  | n + 1 => (s.storeRegs n).writeMem (s.ea n) (s.readV (BitVec.ofNat 4 n))

/-- `V[k] <- MemRead(EA(k), 1)` for the first `n` values of `k`, ascending (R175). -/
def State.loadRegs (s : State) : Nat → State
  | 0 => s
  | n + 1 => (s.loadRegs n).setV (BitVec.ofNat 4 n) (s.readMem (s.ea n))

/-- The sprite of DXYN: `MemRead(EA(k), 1)` for `k` from 0 to `n - 1`, ascending (R198). -/
def State.spriteBytes (s : State) (n : Nat) : List Byte := (List.range n).map fun k => s.readMem (s.ea k)

/-- The request of DXYN: the coordinates unreduced, and the sprite (R198, decision D20). -/
def State.drawRequest (s : State) (x y : Reg) (n : BitVec 4) : Request :=
  .drawSprite (s.readV x) (s.readV y) (s.spriteBytes n.toNat)

end Sys2Proof.Machine
end

