-- ==== Sys2Proof/Machine/Alu.lean ====
section
/-! DEFINITION. Register load and arithmetic (spec 43_alu R150 to R162). Operands are read before anything is written
(R150); all arithmetic is unsigned and modulo 256 (R162). -/

namespace Sys2Proof.Machine

/-- 6XNN: `V[X] <- NN` (R151). -/
def execLdImm (x : Reg) (nn : Byte) (s : State) : Host.Outcome State Fault Refusal := .next (s.setV x nn)

/-- 7XNN: `V[X] <- (V[X] + NN) mod 256`, no flag (R152). -/
def execAddImm (x : Reg) (nn : Byte) (s : State) : Host.Outcome State Fault Refusal := .next (s.setV x (s.readV x + nn))

/-- 8XY0: `V[X] <- V[Y]` (R153). -/
def execLdReg (x y : Reg) (s : State) : Host.Outcome State Fault Refusal := .next (s.setV x (s.readV y))

/-- 8XY1: `V[X] <- V[X] | V[Y]`, VF not written (R154). -/
def execOr (x y : Reg) (s : State) : Host.Outcome State Fault Refusal := .next (s.setV x (s.readV x ||| s.readV y))

/-- 8XY2: `V[X] <- V[X] & V[Y]`, VF not written (R155). -/
def execAnd (x y : Reg) (s : State) : Host.Outcome State Fault Refusal := .next (s.setV x (s.readV x &&& s.readV y))

/-- 8XY3: `V[X] <- V[X] ^ V[Y]`, VF not written (R156). -/
def execXor (x y : Reg) (s : State) : Host.Outcome State Fault Refusal := .next (s.setV x (s.readV x ^^^ s.readV y))

/-- 8XY4: the wrapping sum, and VF its carry (R157). -/
def execAddReg (x y : Reg) (s : State) : Host.Outcome State Fault Refusal :=
  let a := s.readV x
  let b := s.readV y
  .next (s.setResult x (a + b) (carry a b))

/-- 8XY5: the wrapping `V[X] - V[Y]`, and VF its borrow (R158). -/
def execSub (x y : Reg) (s : State) : Host.Outcome State Fault Refusal :=
  let a := s.readV x
  let b := s.readV y
  .next (s.setResult x (a - b) (borrow a b))

/-- 8XY6: `V[Y] >> 1`, and VF the bit shifted out of `V[Y]` (R159). -/
def execShr (x y : Reg) (s : State) : Host.Outcome State Fault Refusal :=
  let b := s.readV y
  .next (s.setResult x (b >>> 1) (shiftedOutLow b))

/-- 8XY7: the wrapping `V[Y] - V[X]`, and VF its borrow (R160). -/
def execSubn (x y : Reg) (s : State) : Host.Outcome State Fault Refusal :=
  let a := s.readV x
  let b := s.readV y
  .next (s.setResult x (b - a) (borrow b a))

/-- 8XYE: `V[Y] << 1`, and VF the bit shifted out of `V[Y]` (R161). -/
def execShl (x y : Reg) (s : State) : Host.Outcome State Fault Refusal :=
  let b := s.readV y
  .next (s.setResult x (b <<< 1) (shiftedOutHigh b))

end Sys2Proof.Machine
end

