-- ==== Sys2Proof/Machine/Control.lean ====
section
/-! DEFINITION. Control transfer (spec 41_control R122 to R125). Each meaning runs on the state after E1, where `pc` is
the address of the next instruction. -/

namespace Sys2Proof.Machine

/-- 00EE: `pc <- popCall()` (R122). -/
def execRet (s : State) : Host.Outcome State Fault Refusal := .next (s.popCall.setPc s.poppedAddr)

/-- 1NNN: `pc <- zext_16(NNN)` (R123). -/
def execJp (nnn : Addr) (s : State) : Host.Outcome State Fault Refusal := .next (s.setPc (zextAddr nnn))

/-- 2NNN: `pushCall(pc)`, then `pc <- zext_16(NNN)` (R124). -/
def execCall (nnn : Addr) (s : State) : Host.Outcome State Fault Refusal :=
  .next ((s.pushCall s.pc).setPc (zextAddr nnn))

/-- BNNN: `pc <- zext_16(NNN) + zext_16(V[0])` (R125). -/
def execJpV0 (nnn : Addr) (s : State) : Host.Outcome State Fault Refusal :=
  .next (s.setPc (zextAddr nnn + zextByte (s.readV 0)))

end Sys2Proof.Machine
end

