-- ==== Sys2Proof/Machine/IndexMemory.lean ====
section
/-! DEFINITION. Index register and memory instructions (spec 44_index_memory R170 to R176). None of them writes VF as a
flag, and FX33, FX55 and FX65 leave `I` as it is (decision D8, assumption 14). -/

namespace Sys2Proof.Machine

/-- ANNN: `I <- zext_16(NNN)` (R170). -/
def execLdI (nnn : Addr) (s : State) : Host.Outcome State Fault Refusal := .next (s.setI (zextAddr nnn))

/-- FX1E: `I <- (I + zext_16(V[X])) mod 65536` (R171). -/
def execAddI (x : Reg) (s : State) : Host.Outcome State Fault Refusal := .next (s.setI (s.i + zextByte (s.readV x)))

/-- FX29: `I <- FONT_BASE + zext_16(V[X]) * 5`, all 8 bits of `V[X]` (R172). -/
def execLdF (x : Reg) (s : State) : Host.Outcome State Fault Refusal :=
  .next (s.setI (fontBase + zextByte (s.readV x) * fontGlyphBytes))

/-- FX33: hundreds, tens and ones of `V[X]` to `EA(0)`, `EA(1)`, `EA(2)` (R173). -/
def execLdB (x : Reg) (s : State) : Host.Outcome State Fault Refusal :=
  let b := s.readV x
  .next (((s.writeMem (s.ea 0) (hundreds b)).writeMem (s.ea 1) (tens b)).writeMem (s.ea 2) (ones b))

/-- FX55: `V[0]` to `V[X]` inclusive to `EA(0)` to `EA(X)` (R174). -/
def execLdMemVx (x : Reg) (s : State) : Host.Outcome State Fault Refusal := .next (s.storeRegs (x.toNat + 1))

/-- FX65: `EA(0)` to `EA(X)` to `V[0]` to `V[X]` inclusive (R175). -/
def execLdVxMem (x : Reg) (s : State) : Host.Outcome State Fault Refusal := .next (s.loadRegs (x.toNat + 1))

end Sys2Proof.Machine
end

