-- ==== Sys2Proof/Machine/MediatorOps.lean ====
section
/-! DEFINITION. The six instructions that use the mediator (spec 45_mediator_ops R196 to R202). The answer is an input
that the step takes from the outside (R195), and a mediator that never answers leaves the step stuck (`State.ask`,
R105); the request's payload is read before anything is written (R105). -/

namespace Sys2Proof.Machine

/-- 00E0: the request alone (R196). -/
def execCls (s : State) : Host.Outcome State Fault Refusal := s.ask .clearDisplay id

/-- CXNN: `V[X] <- NN & r` (R197). -/
def execRnd (x : Reg) (nn : Byte) (s : State) : Host.Outcome State Fault Refusal :=
  s.ask .getRandomByte fun t => t.setV x (nn &&& s.randomAnswer)

/-- DXYN: the draw request, and VF its collision bit, on every execution, N = 0 included (R198). -/
def execDrw (x y : Reg) (n : BitVec 4) (s : State) : Host.Outcome State Fault Refusal :=
  s.ask (s.drawRequest x y n) fun t => t.setFlag s.collisionAnswer

/-- EX9E: skip if the whole key byte equals the low nibble of `V[X]` (R199). -/
def execSkp (x : Reg) (s : State) : Host.Outcome State Fault Refusal :=
  s.ask .getCurrentKey fun t => t.skipIf (s.keyAnswer == lowNibble (s.readV x))

/-- EXA1: skip if it does not (R200). -/
def execSknp (x : Reg) (s : State) : Host.Outcome State Fault Refusal :=
  s.ask .getCurrentKey fun t => t.skipIf (s.keyAnswer != lowNibble (s.readV x))

/-- FX0A: with no key held `pc` goes back to this instruction and `V[X]` stays; else `V[X]` is the key (R201, decision
D10). -/
def execLdVxK (x : Reg) (s : State) : Host.Outcome State Fault Refusal :=
  s.ask .getCurrentKey fun t => if s.keyAnswer = keyNone then t.stay else t.setV x s.keyAnswer

/-- The table of R202: the request an instruction makes when it runs on a state (the one after E1), if any. -/
def requestOf (i : Instr) (s : State) : Option Request :=
  match i with
  | .cls => some .clearDisplay
  | .rnd _ _ => some .getRandomByte
  | .drw x y n => some (s.drawRequest x y n)
  | .skp _ | .sknp _ | .ldVxK _ => some .getCurrentKey
  | .ret | .jp _ | .call _ | .seImm _ _ | .sneImm _ _ | .seReg _ _ | .ldImm _ _ | .addImm _ _ | .ldReg _ _ | .or _ _
  | .and _ _ | .xor _ _ | .addReg _ _ | .sub _ _ | .shr _ _ | .subn _ _ | .shl _ _ | .sneReg _ _ | .ldI _ | .jpV0 _
  | .ldVxDt _ | .ldDtVx _ | .ldStVx _ | .addI _ | .ldF _ | .ldB _ | .ldMemVx _ | .ldVxMem _ | .nop _ => none

end Sys2Proof.Machine
end

