-- ==== Sys2Proof/Machine/Unmatched.lean ====
section
/-! DEFINITION. The no-op (spec 47_unmatched R230). -/

namespace Sys2Proof.Machine

/-- A word that matches no pattern: nothing after E1 (R230). The `pc` advance is E1's, in `State.execute`. -/
def execNop (_w : Word) (s : State) : Host.Outcome State Fault Refusal := .next s

end Sys2Proof.Machine
end

