-- ==== Sys2Proof/Machine/Cycle.lean ====
section
/-! DEFINITION. The cycle and the driver's commands: `fetch` and `execute` (spec 40_cycle R100 to R109), the load
commands (20_memory R62 to R64), `reset` (70_reset_and_hazards R270 to R272), `tickTimers` (60_exceptions R246), and
how the driver's pending commands are taken one at a time (00_scope R14, R16). -/

namespace Sys2Proof.Machine

/-! ## fetch -/

/-- F1: `pc` wraps to 0x200 when it is at or beyond the ceiling (R101, decision D3). -/
def State.wrapPc (s : State) : State := if loadCeil ≤ s.pc.toNat then s.setPc loadBase else s

/-- F2: the two bytes at `pc`, big-endian (R101, R51). After F1 `pc` is below 0xE8F, so no address is cut. -/
def State.opcodeAtPc (s : State) : Word :=
  wordOfBytes (s.readMem (s.pc.setWidth 12)) (s.readMem (s.pc.setWidth 12 + 1))

/-- The opcode `fetch()` returns (R101); the state it leaves is `wrapPc`. -/
def State.fetchedWord (s : State) : Word := s.wrapPc.opcodeAtPc

/-! ## execute -/

/-- `execute(w)`: E1, then E2 and E3 (R103). Memory at `pc` is not consulted (R107). -/
def State.execute (s : State) (w : Word) : Host.Outcome State Fault Refusal := exec (decodeWord w) s.advance

/-- The step `execute(fetch())` with nothing between (R106). -/
def State.fetchExecute (s : State) : Host.Outcome State Fault Refusal := s.wrapPc.execute s.fetchedWord

/-! ## The load commands -/

/-- `loadBytes`: fails, with nothing changed, if the copy would pass the ceiling; the sum does not overflow (R62). -/
def State.tryLoadBytes (s : State) (base : Word) (bytes : List Byte) : Option State :=
  if loadCeil < base.toNat + bytes.length then none else some (s.copyBytes base.toNat bytes)

/-- `loadProgram`: fails, with nothing changed, if the source is unreadable or too long; else copies to 0x200 and sets
`pc` to 0x200 (R63). -/
def State.tryLoadProgram (s : State) (readable : Bool) (bytes : List Byte) : Option State :=
  if readable then (s.tryLoadBytes loadBase bytes).map fun t => t.setPc loadBase else none

/-- The result a load command returns to the driver (R254). -/
def State.reportLoad (s : State) : Option State → State
  | some t => t.emit .loadOk
  | none => s.emit .loadFail

/-! ## reset -/

/-- The command `reset()`: every element of the CORE as R270 lists it, whatever it was (R271); the outside is not the
CORE's to reset, and no request is made (R272). -/
def State.resetCommand (s : State) : State := { State.reset with env := s.env }

/-! ## One command -/

/-- What each command does (R14). -/
def State.perform (s : State) : Command → Host.Outcome State Fault Refusal
  | .step => s.fetchExecute
  | .fetch => .next (s.wrapPc.emit (.fetched s.fetchedWord))
  | .execute w => s.execute w
  | .tickTimers => .next s.tickTimers
  | .reset => .next s.resetCommand
  | .loadBytes base bytes => .next (s.reportLoad (s.tryLoadBytes base bytes))
  | .loadProgram readable bytes => .next (s.reportLoad (s.tryLoadProgram readable bytes))

/-- The state with these commands pending. -/
def State.setDriver (s : State) (cs : List Command) : State := { s with env := { s.env with driver := cs } }

/-- The driver's next command, one at a time (R16); with none pending, the driver steps (R106). -/
def State.runNext (s : State) : Host.Outcome State Fault Refusal :=
  match s.env.driver with
  | [] => s.fetchExecute
  | c :: cs => (s.setDriver cs).perform c

/-- The request the CORE's next step will make, if any (R202). -/
def State.nextRequest (s : State) : Option Request :=
  match s.env.driver with
  | [] => requestOf (decodeWord s.fetchedWord) s.wrapPc.advance
  | .step :: _ => requestOf (decodeWord s.fetchedWord) s.wrapPc.advance
  | .execute w :: _ => requestOf (decodeWord w) s.advance
  | .fetch :: _ | .tickTimers :: _ | .reset :: _ | .loadBytes _ _ :: _ | .loadProgram _ _ :: _ => none

/-! ## The host's placing of an instruction -/

/-- A word's two bytes where the next `fetch` reads them (R51, R101), and no command pending before it (assumption 10). -/
def State.placeWord (s : State) (w : Word) : State :=
  let a := s.wrapPc.pc.setWidth 12
  ((s.writeMem a (highByte w)).writeMem (a + 1) (lowByte w)).setDriver []

end Sys2Proof.Machine
end

