-- ==== Sys2Proof/Machine/Step.lean ====
section
/-! DEFINITION. The step: the driver's next command, `execute(fetch())` when none is pending (spec 40_cycle R106,
00_scope R16). -/

namespace Sys2Proof.Machine

/-- One step. -/
def step (s : State) : Host.Outcome State Fault Refusal := s.runNext

/-- The state whose next step fetches and runs the table word (assumption 10). -/
def State.withFetchWord (s : State) (nbits w : Nat) : State := s.placeWord (tableWord nbits w)

end Sys2Proof.Machine
end

