-- ==== Sys2Proof/Machine/RefMediator.lean ====
section
/-! DEFINITION. The reference mediator (spec 45_mediator_ops R203) and the CORE run against it. It is a fixture and not
part of the CORE: no meaning uses it, and its surface is no part of `State` (00_scope R4). Where R203 goes beyond the
contract of R191 to R194 (bit 7 leftmost, rows downwards) it is the spec's own choice: assumption 12. -/

namespace Sys2Proof.Machine

/-- `DISPLAY_H` rows of `DISPLAY_W` pixels (R12). -/
abbrev Surface := Vector (Vector Bool 64) 32

/-- The fixture's state: the surface, the key the driver set, and the random bytes a test supplies (R203). -/
structure RefMediator where
  px : Surface
  key : Byte
  rnd : List Byte
  deriving DecidableEq, Repr

/-- All pixels unlit, no key held, no random byte supplied. -/
def RefMediator.initial : RefMediator :=
  { px := Vector.replicate 32 (Vector.replicate 64 false), key := keyNone, rnd := [] }

/-- One pixel. -/
def Surface.at (px : Surface) (r : Fin 32) (c : Fin 64) : Bool := px[r.val][c.val]

/-- One pixel flipped (XORed with 1). -/
def Surface.flip (px : Surface) (r : Fin 32) (c : Fin 64) : Surface :=
  px.set r.val (px[r.val].set c.val (!px[r.val][c.val]))

/-- A draw in progress: whether a pixel has gone from lit to unlit so far, and the surface so far (R203). -/
abbrev Drawing := Bool × Surface

/-- One lit sprite pixel, its place wrapped at 32 rows and 64 columns (R192, R203). -/
def Drawing.plot (d : Drawing) (row col : Nat) : Drawing :=
  let r := Fin.ofNat 32 row
  let c := Fin.ofNat 64 col
  (d.1 || Surface.at d.2 r c, Surface.flip d.2 r c)

/-- One sprite byte: bit 7 is the leftmost pixel (R203). -/
def Drawing.row (d : Drawing) (x y : Nat) (b : Byte) : Drawing :=
  (List.range 8).foldl (fun d col => if b.getLsbD (7 - col) then Drawing.plot d y (x + col) else d) d

/-- The sprite's bytes, one row each, downwards (R203). -/
def Drawing.rows (d : Drawing) (x y : Nat) : List Byte → Drawing
  | [] => d
  | b :: bs => Drawing.rows (Drawing.row d x y b) x (y + 1) bs

/-- `drawSprite(x, y, bytes)`: the answer and the surface (R192, R203). -/
def Surface.draw (px : Surface) (x y : Byte) (bytes : List Byte) : Drawing :=
  Drawing.rows (false, px) x.toNat y.toNat bytes

/-- `clearDisplay()`: every pixel unlit (R191, R203). -/
def RefMediator.clear (m : RefMediator) : RefMediator := { m with px := RefMediator.initial.px }

/-- What the fixture answers a request with. -/
inductive Answer
  /-- To `clearDisplay`: it returns, and there is no value (R191). -/
  | done
  /-- To `drawSprite` (R192). -/
  | collided (c : Bool)
  /-- To `getCurrentKey` (R193). -/
  | key (b : Byte)
  /-- To `getRandomByte` (R194). -/
  | random (b : Byte)
  /-- None, ever: the request does not return (R105). -/
  | never
  deriving DecidableEq, Repr

/-- The outside with this answer waiting for the next request: the mediator answers that one, or it answers no more. -/
def Env.supply (e : Env) : Answer → Env
  | .done => { e with answersLeft := none }
  | .collided c => { e with answersLeft := none, collisions := c :: e.collisions }
  | .key b => { e with answersLeft := none, keys := b :: e.keys }
  | .random b => { e with answersLeft := none, randoms := b :: e.randoms }
  | .never => { e with answersLeft := some 0 }

/-- This answer as the one the CORE's next request gets. -/
def State.supply (s : State) (a : Answer) : State := { s with env := s.env.supply a }

/-- The fixture serves one request: its answer, and the fixture afterwards (R203). When the test's stream of random
bytes has run out there is no next byte to return, and the request never returns (assumption 12). -/
def RefMediator.serve (m : RefMediator) : Request → Answer × RefMediator
  | .clearDisplay => (.done, m.clear)
  | .drawSprite x y bytes =>
    let d := Surface.draw m.px x y bytes
    (.collided d.1, { m with px := d.2 })
  | .getCurrentKey => (.key m.key, m)
  | .getRandomByte =>
    match m.rnd with
    | b :: bs => (.random b, { m with rnd := bs })
    | [] => (.never, m)

/-- The CORE and a reference mediator. -/
structure Rig where
  core : State
  mediator : RefMediator
  deriving DecidableEq, Repr

/-- The two after the mediator has served the request that the CORE's next step makes, if it makes one. -/
def Rig.served (g : Rig) : Rig :=
  match g.core.nextRequest with
  | some r => { core := g.core.supply (g.mediator.serve r).1, mediator := (g.mediator.serve r).2 }
  | none => g

/-- One step of the two together: the mediator answers the request the step makes, before the step completes (R190). -/
def Rig.step (g : Rig) : Host.Outcome Rig Fault Refusal :=
  match g.served.core.runNext with
  | .next t => .next { core := t, mediator := g.served.mediator }
  | .fault f => .fault f
  | .refused r => .refused r

end Sys2Proof.Machine
end

