-- ==== Sys2Proof/Safety.lean ====
section
/-! DEFINITION. The terms claims are stated in: the invariant, the mediator's contract as a premise, the conditions
that lose a return address, the halted state, and what a step leaves unchanged. -/

namespace Sys2Proof.Machine

/-! ## Invariant and premises -/

/-- Memory is in its canonical form. All else that bounds the state (R20 to R34) is in its types. -/
abbrev State.Inv (s : State) : Prop := Memory.wf s.mem = true

/-- The pending key answers keep the mediator's contract: a key index 0 to 15 or the sentinel (R193, R195). -/
abbrev State.KeysKeepContract (s : State) : Prop := ∀ k ∈ s.env.keys, k.toNat ≤ keyNone.toNat

/-- Running this instruction here loses a return address: CALL with the stack pointer at its limit (R126). -/
abbrev losesReturn (i : Instr) (s : State) : Prop :=
  match i with
  | .call _ => s.sp = spMax
  | _ => False

/-- Running this instruction here returns from nothing: RET with no call pending (R126). -/
abbrev returnsFromNothing (i : Instr) (s : State) : Prop :=
  match i with
  | .ret => s.sp = 0
  | _ => False

/-- "The program has halted": `pc` = A below the ceiling, where a jump to A stands (R282, decision D19). -/
abbrev State.Halted (s : State) : Prop :=
  s.pc.toNat < loadCeil ∧ s.opcodeAtPc = encode (.jp (s.pc.setWidth 12))

/-! ## Which instruction writes what, as the spec's own lists say -/

/-- The general registers an instruction may write: R22's list, with R25's flag writers. -/
abbrev mayWriteReg (i : Instr) (r : Reg) : Prop :=
  match i with
  | .ldImm x _ | .addImm x _ | .ldReg x _ | .or x _ | .and x _ | .xor x _ | .rnd x _ | .ldVxDt x | .ldVxK x => r = x
  | .addReg x _ | .sub x _ | .shr x _ | .subn x _ | .shl x _ => r = x ∨ r = vf
  | .drw _ _ _ => r = vf
  | .ldVxMem x => r.toNat ≤ x.toNat
  | .cls | .ret | .jp _ | .call _ | .seImm _ _ | .sneImm _ _ | .seReg _ _ | .sneReg _ _ | .ldI _ | .jpV0 _ | .skp _
  | .sknp _ | .ldDtVx _ | .ldStVx _ | .addI _ | .ldF _ | .ldB _ | .ldMemVx _ | .nop _ => False

/-- The instructions that write `pc` in E3 (R29). -/
abbrev mayWritePc (i : Instr) : Prop :=
  match i with
  | .ret | .jp _ | .call _ | .jpV0 _ | .seImm _ _ | .sneImm _ _ | .seReg _ _ | .sneReg _ _ | .skp _ | .sknp _
  | .ldVxK _ => True
  | .cls | .ldImm _ _ | .addImm _ _ | .ldReg _ _ | .or _ _ | .and _ _ | .xor _ _ | .addReg _ _ | .sub _ _ | .shr _ _
  | .subn _ _ | .shl _ _ | .ldI _ | .rnd _ _ | .drw _ _ _ | .ldVxDt _ | .ldDtVx _ | .ldStVx _ | .addI _ | .ldF _
  | .ldB _ | .ldMemVx _ | .ldVxMem _ | .nop _ => False

/-- The loads the driver asks for that must fail (R62, R63, R254). -/
abbrev Command.mustFail (c : Command) : Prop :=
  match c with
  | .loadBytes base bytes => loadCeil < base.toNat + bytes.length
  | .loadProgram readable bytes => readable = false ∨ 3215 < bytes.length
  | .step | .fetch | .execute _ | .tickTimers | .reset => False

/-- Opcodes executed one after another, each with its E1 (R103, R107). -/
def State.executeAll (s : State) : List Word → Host.Outcome State Fault Refusal
  | [] => .next s
  | w :: ws =>
    match s.execute w with
    | .next t => t.executeAll ws
    | .fault f => .fault f
    | .refused r => .refused r

/-! ## What an operation leaves unchanged -/

/-- Every general register but these. -/
abbrev KeepsRegsBut (P : Reg → Prop) (s t : State) : Prop := ∀ r, ¬ P r → t.readV r = s.readV r

/-- Every general register. -/
abbrev KeepsRegs (s t : State) : Prop := ∀ r, t.readV r = s.readV r

/-- The stack and its pointer. -/
abbrev KeepsStack (s t : State) : Prop := t.sp = s.sp ∧ ∀ k, t.stackAt k = s.stackAt k

/-- Both timers. -/
abbrev KeepsTimers (s t : State) : Prop := t.dt = s.dt ∧ t.st = s.st

/-- Every byte of memory but these. -/
abbrev KeepsMemoryBut (P : Addr → Prop) (s t : State) : Prop := ∀ a, ¬ P a → t.readMem a = s.readMem a

/-- Every byte of memory. -/
abbrev KeepsMemory (s t : State) : Prop := ∀ a, t.readMem a = s.readMem a

/-- Everything of the CORE but the general registers. -/
abbrev KeepsCoreButRegs (s t : State) : Prop :=
  t.i = s.i ∧ t.pc = s.pc ∧ KeepsStack s t ∧ KeepsTimers s t ∧ KeepsMemory s t

/-- Everything of the CORE but the program counter. -/
abbrev KeepsCoreButPc (s t : State) : Prop :=
  KeepsRegs s t ∧ t.i = s.i ∧ KeepsStack s t ∧ KeepsTimers s t ∧ KeepsMemory s t

/-- Everything of the CORE but memory. -/
abbrev KeepsCoreButMemory (s t : State) : Prop :=
  KeepsRegs s t ∧ t.i = s.i ∧ t.pc = s.pc ∧ KeepsStack s t ∧ KeepsTimers s t

/-- Everything but the general registers. -/
abbrev KeepsAllButRegs (s t : State) : Prop := KeepsCoreButRegs s t ∧ t.env = s.env

/-- Everything but the program counter. -/
abbrev KeepsAllButPc (s t : State) : Prop := KeepsCoreButPc s t ∧ t.env = s.env

/-- Everything but memory. -/
abbrev KeepsAllButMemory (s t : State) : Prop := KeepsCoreButMemory s t ∧ t.env = s.env

/-- Everything but the index register. -/
abbrev KeepsAllButIndex (s t : State) : Prop :=
  KeepsRegs s t ∧ t.pc = s.pc ∧ KeepsStack s t ∧ KeepsTimers s t ∧ KeepsMemory s t ∧ t.env = s.env

/-- Everything of the CORE: only what stands outside it may differ. -/
abbrev KeepsCore (s t : State) : Prop := t = { s with env := t.env }

end Sys2Proof.Machine
end

