-- ==== Sys2Proof/Certificates/Slice0/Obligations.lean ====
section
/-! DEFINITION. The statements for the provers. A statement whose docstring says "the spec's decision D<n>" rests on a
choice that 92_eei_decisions.md marks as the spec's own; the assumption log has an entry for each. Statements about the
`Env` fields rest on the model's own bookkeeping (assumptions 4, 5, 7 and 8). -/

open Sys2Proof Sys2Proof.Machine

/-! ## Reset -/

/-- R40 to R45: whatever the state, after `reset()` every register, the stack, the timers and every byte of memory have
the reset value; `FONT` is the parameter of R36 (assumption 1). -/
def Obligations.ResetGivesEveryElementItsValue : Prop :=
  ∀ s : State, ∃ t, s.perform .reset = .next t ∧
    (∀ r, t.readV r = 0x00) ∧ t.pc = 0x0200 ∧
    (∀ a : Addr, a.toNat < 0x050 → t.readMem a = font.getD a.toNat 0) ∧
    (∀ a : Addr, 0x050 ≤ a.toNat → t.readMem a = 0x00) ∧
    t.i = 0x0000 ∧ t.sp = 0 ∧ (∀ k, t.stackAt k = 0x0000) ∧ t.dt = 0x00 ∧ t.st = 0x00

/-- R271: `reset()` may be called in any state, a second one changes nothing, and the CORE it leaves is the same from
every state, the one `State.reset` has. -/
def Obligations.ResetIsIdempotentFromEveryState : Prop :=
  ∀ s : State, ∃ t, s.perform .reset = .next t ∧ t.perform .reset = .next t ∧ KeepsCore State.reset t

/-- The invariant holds at reset (the model's canonical memory form, 20_memory). -/
def Obligations.ResetStateHasTheInvariant : Prop := State.reset.Inv

/-! ## Encoding -/

/-- Words written out from the patterns of 30_encoding (one of every format and of the unmatched space) decode to
their instructions. -/
def Obligations.WrittenOutWordsDecode : Prop :=
  decodeWord 0x00E0 = .cls ∧ decodeWord 0x2ABC = .call 0xABC ∧ decodeWord 0x7A12 = .addImm 0xA 0x12 ∧
  decodeWord 0x8AB7 = .subn 0xA 0xB ∧ decodeWord 0xD12F = .drw 0x1 0x2 0xF ∧ decodeWord 0xEAA1 = .sknp 0xA ∧
  decodeWord 0xF355 = .ldMemVx 0x3 ∧ decodeWord 0x5121 = .nop 0x5121

/-- Decoding the encoding of a well-formed instruction gives it back, from the word and from the two bytes in memory
order, with every operand at every value. -/
def Obligations.DecodingAnEncodingGivesTheInstruction : Prop :=
  ∀ i : Instr, i.wellFormed = true → decodeWord (encode i) = i ∧ decode (encodeBytes i) = .ok i []

/-- Every one of the 65536 words decodes to a well-formed instruction whose encoding is that word: no bit is dropped and
no two words are one instruction. -/
def Obligations.EncodingADecodingGivesTheWord : Prop :=
  ∀ w : Word, (decodeWord w).wellFormed = true ∧ encode (decodeWord w) = w

/-- The procedure of R84 and the masks of R86 agree: a word decodes to a row's instruction exactly when
`w & mask = match`, no word is on two rows, and the no-op takes exactly the words on no row (R85). Exact patterns are
the spec's decision D12. -/
def Obligations.DecoderAgreesWithTheOpcodeMap : Prop :=
  ∀ w : Word, (∀ row ∈ opcodeMap, row.covers w = true ↔ (decodeWord w).row = row) ∧
    (decodeWord w = .nop w ↔ ∀ row ∈ opcodeMap, row.covers w = false)

/-! ## The cycle -/

/-- R106 with R101 and R103: the command `step`, and a step with no command pending, is the instruction that the two
bytes at the wrapped `pc` decode to, run with `pc` two beyond it. R103 and R107: the command `execute` runs the word it is
given, whatever `pc` is and whatever memory holds there, with `pc` two beyond (decisions D3 and D4). -/
def Obligations.StepRunsTheDecodedInstruction : Prop :=
  (∀ (s : State) (i : Instr) (p : Word), p = (if 0xE8F ≤ s.pc.toNat then 0x200 else s.pc) →
    decode [s.readMem (p.setWidth 12), s.readMem (p.setWidth 12 + 1)] = .ok i [] →
      (s.env.driver = [] → step s = exec i (s.setPc (p + 2))) ∧ s.perform .step = exec i (s.setPc (p + 2))) ∧
  ∀ (s : State) (hi lo : Byte) (i : Instr), decode [hi, lo] = .ok i [] →
    s.perform (.execute (wordOfBytes hi lo)) = exec i (s.setPc (s.pc + 2))

/-- A pending command of the driver is what the next step performs, and it is pending no more (the model's choice,
assumption 4). -/
def Obligations.StepPerformsThePendingCommand : Prop :=
  ∀ (s : State) (c : Command) (cs : List Command), s.env.driver = c :: cs → step s = (s.setDriver cs).perform c

/-- R51: the byte at the lower address is the opcode's high byte, the byte at the next address its low byte. -/
def Obligations.FetchIsBigEndian : Prop :=
  ∀ s : State, s.pc.toNat < 0xE8F →
    (s.fetchedWord.extractLsb' 8 8 = s.readMem (BitVec.ofNat 12 s.pc.toNat) ∧
      s.fetchedWord.extractLsb' 0 8 = s.readMem (BitVec.ofNat 12 (s.pc.toNat + 1)))

/-- R101 (decision D3): `fetch()` sets `pc` to 0x200 when it is at or beyond the ceiling and changes nothing else of the
CORE, a second one returns the same opcode, and the opcode is the one at the new `pc`, always below 0xE8F. -/
def Obligations.FetchWrapsAtTheCeilingAndOnlyReads : Prop :=
  ∀ s : State, ∃ t, s.perform .fetch = .next t ∧
    t.pc = (if 0xE8F ≤ s.pc.toNat then 0x200 else s.pc) ∧ t.pc.toNat < 0xE8F ∧ KeepsRegs s t ∧ t.i = s.i ∧
    KeepsStack s t ∧ KeepsTimers s t ∧ KeepsMemory s t ∧
    t.env.trace = s.env.trace ++ [.fetched t.opcodeAtPc] ∧
    ∃ u, t.perform .fetch = .next u ∧ u.pc = t.pc ∧ u.env.trace = t.env.trace ++ [.fetched t.opcodeAtPc]

/-- R102 (d), the source's property S6: after 1NNN, `fetch` returns the opcode at NNN when NNN is below the ceiling, else
the opcode at 0x200 (decision D3). -/
def Obligations.FetchAfterAJumpReadsTheTarget : Prop :=
  ∀ (s : State) (nnn : Addr), ∃ t, exec (.jp nnn) s = .next t ∧
    (nnn.toNat < 0xE8F → t.fetchedWord = wordOfBytes (s.readMem nnn) (s.readMem (nnn + 1))) ∧
    (0xE8F ≤ nnn.toNat → t.fetchedWord = wordOfBytes (s.readMem 0x200) (s.readMem 0x201))

/-- R61: a block store that covers the next instruction's two bytes changes what the next `fetch` returns. -/
def Obligations.StoredCodeIsWhatTheNextFetchReturns : Prop :=
  ∀ (s : State) (x : Reg) (k : Nat), k < x.toNat → s.pc.toNat < 0xE8F → s.ea k = BitVec.ofNat 12 s.pc.toNat →
    ∃ t, exec (.ldMemVx x) s = .next t ∧
      t.fetchedWord = wordOfBytes (s.readV (BitVec.ofNat 4 k)) (s.readV (BitVec.ofNat 4 (k + 1)))

/-- R240, R104: "every opcode has a fully defined, total behavior": every instruction, command and step answers a next
state, but where it asks a mediator that never answers (R105, assumption 7); `ASilentMediatorLeavesTheStepStuck` says what
happens there. -/
def Obligations.EverythingAnswersANextState : Prop :=
  (∀ (i : Instr) (s : State), requestOf i s = none ∨ s.env.silent = false → ∃ t, exec i s = .next t) ∧
  (∀ (c : Command) (s : State), ((∀ w, c ≠ .execute w) ∧ c ≠ .step) ∨ s.env.silent = false →
    ∃ t, s.perform c = .next t) ∧
  ∀ s : State, s.nextRequest = none ∨ s.env.silent = false → ∃ t, step s = .next t

/-- R105: "a mediator that never answers" is "a step that never completes (stuck), not" "a step with some default answer".
The request, with its payload, is the last thing seen; nothing else faults, and nothing is refused. The named fault is the
model's form of the stuck step (assumption 7). -/
def Obligations.ASilentMediatorLeavesTheStepStuck : Prop :=
  (∀ (i : Instr) (s : State) (r : Request), s.env.silent = true → requestOf i s = some r →
    exec i s = .fault (.mediatorSilent r)) ∧
  (∀ (s : State) (r : Request), s.env.silent = true → s.nextRequest = some r → step s = .fault (.mediatorSilent r)) ∧
  ∀ s : State, (∀ f, step s = .fault f → s.env.silent = true ∧ ∃ r, s.nextRequest = some r ∧ f = .mediatorSilent r) ∧
    ∀ q, step s ≠ .refused q

/-! ## Control transfer and the call stack -/

/-- R123 and R125: JP and JP V0 set `pc` and change nothing else; the sum is not reduced. -/
def Obligations.JumpsSetPcAlone : Prop :=
  ∀ (s : State) (nnn : Addr),
    (∃ t, exec (.jp nnn) s = .next t ∧ t.pc.toNat = nnn.toNat ∧ KeepsAllButPc s t) ∧
    (∃ t, exec (.jpV0 nnn) s = .next t ∧ t.pc.toNat = nnn.toNat + (s.readV 0).toNat ∧ KeepsAllButPc s t)

/-- R124, R120: CALL stores the advanced `pc` at `sp`, advances `sp` but not beyond 15, and jumps (decisions D5, D6). -/
def Obligations.CallPushesTheReturnAddress : Prop :=
  ∀ (s : State) (nnn : Addr), ∃ t, exec (.call nnn) s = .next t ∧ t.pc.toNat = nnn.toNat ∧
    t.stackAt s.sp = s.pc ∧ (∀ k, k ≠ s.sp → t.stackAt k = s.stackAt k) ∧ t.sp.val = min 15 (s.sp.val + 1) ∧
    KeepsRegs s t ∧ t.i = s.i ∧ KeepsTimers s t ∧ KeepsMemory s t ∧ t.env = s.env

/-- R122, R121: RET takes one off `sp`, but not below 0, and jumps to the entry there, which stays (decision D6). -/
def Obligations.ReturnPopsTheStack : Prop :=
  ∀ s : State, ∃ t, exec .ret s = .next t ∧ t.sp.val = s.sp.val - 1 ∧ t.pc = s.stackAt t.sp ∧
    (∀ k, t.stackAt k = s.stackAt k) ∧
    KeepsRegs s t ∧ t.i = s.i ∧ KeepsTimers s t ∧ KeepsMemory s t ∧ t.env = s.env

/-- R126: as many calls as there is room for below the limit of 15, each from where the one before it went, and as many
returns end at the instruction after the first call with `sp` as it was (decisions D4, D5, D6). -/
def Obligations.NestedCallsReturnToTheirCallers : Prop :=
  ∀ (s : State) (targets : List Addr), s.sp.val + targets.length ≤ 15 → targets ≠ [] →
    ∃ t, s.executeAll (targets.map (fun nnn => encode (.call nnn)) ++
        List.replicate targets.length (encode .ret)) = .next t ∧
      t.pc = s.pc + 2 ∧ t.sp = s.sp ∧ KeepsRegs s t ∧ t.i = s.i ∧ KeepsTimers s t ∧ KeepsMemory s t ∧
      t.env = s.env ∧ ∀ k, k < s.sp → t.stackAt k = s.stackAt k

/-- R126: a call made with `sp` at 15 writes entry 15, and its return goes to entry 14, another call's address: its own
return address is lost (decision D6). -/
def Obligations.CallAtTheStackLimitLosesItsReturn : Prop :=
  ∀ (s : State) (nnn : Addr), losesReturn (.call nnn) s →
    ∃ t u, exec (.call nnn) s = .next t ∧ t.sp = 15 ∧ t.stackAt 15 = s.pc ∧
      exec .ret t = .next u ∧ u.sp = 14 ∧ u.pc = s.stackAt 14

/-- R126: a return with no call pending jumps to entry 0 and leaves `sp` at 0 (decision D6). -/
def Obligations.ReturnFromNothingJumpsToEntryZero : Prop :=
  ∀ s : State, returnsFromNothing .ret s → exec .ret s = .next (s.setPc (s.stackAt 0))

/-! ## Skips -/

/-- R141 to R144: each skip adds a further 2 to `pc`, modulo 65536 (R140; decision D4, assumption 23), exactly when its
comparison holds, and changes nothing else. -/
def Obligations.RegisterSkipsAddTwoWhenTheyHold : Prop :=
  ∀ (s : State) (x y : Reg) (nn : Byte),
    (∃ t, exec (.seImm x nn) s = .next t ∧ KeepsAllButPc s t ∧
      t.pc.toNat = if s.readV x = nn then (s.pc.toNat + 2) % 65536 else s.pc.toNat) ∧
    (∃ t, exec (.sneImm x nn) s = .next t ∧ KeepsAllButPc s t ∧
      t.pc.toNat = if s.readV x ≠ nn then (s.pc.toNat + 2) % 65536 else s.pc.toNat) ∧
    (∃ t, exec (.seReg x y) s = .next t ∧ KeepsAllButPc s t ∧
      t.pc.toNat = if s.readV x = s.readV y then (s.pc.toNat + 2) % 65536 else s.pc.toNat) ∧
    (∃ t, exec (.sneReg x y) s = .next t ∧ KeepsAllButPc s t ∧
      t.pc.toNat = if s.readV x ≠ s.readV y then (s.pc.toNat + 2) % 65536 else s.pc.toNat)

/-! ## Register load and arithmetic -/

/-- R151 and R153: 6XNN and 8XY0 write `V[X]` alone. -/
def Obligations.LoadsWriteTheirDestinationAlone : Prop :=
  ∀ (s : State) (x y : Reg) (nn : Byte),
    (∃ t, exec (.ldImm x nn) s = .next t ∧ t.readV x = nn ∧ KeepsRegsBut (· = x) s t ∧ KeepsAllButRegs s t) ∧
    (∃ t, exec (.ldReg x y) s = .next t ∧ t.readV x = s.readV y ∧ KeepsRegsBut (· = x) s t ∧ KeepsAllButRegs s t)

/-- R152: 7XNN adds modulo 256 and touches no other register, VF with them; with X = 15 the destination is VF. -/
def Obligations.AddImmediateWrapsAndRecordsNoCarry : Prop :=
  ∀ (s : State) (x : Reg) (nn : Byte), ∃ t, exec (.addImm x nn) s = .next t ∧
    (t.readV x).toNat = ((s.readV x).toNat + nn.toNat) % 256 ∧ (x ≠ 15 → t.readV 15 = s.readV 15) ∧
    KeepsRegsBut (· = x) s t ∧ KeepsAllButRegs s t

/-- R154, R155, R156: the logical instructions work bit by bit and write `V[X]` alone, so VF only as a destination. -/
def Obligations.LogicWorksBitwiseAndWritesNoFlag : Prop :=
  ∀ (s : State) (x y : Reg),
    (∃ t, exec (.or x y) s = .next t ∧ KeepsRegsBut (· = x) s t ∧ KeepsAllButRegs s t ∧
      ∀ j, (t.readV x).getLsbD j = ((s.readV x).getLsbD j || (s.readV y).getLsbD j)) ∧
    (∃ t, exec (.and x y) s = .next t ∧ KeepsRegsBut (· = x) s t ∧ KeepsAllButRegs s t ∧
      ∀ j, (t.readV x).getLsbD j = ((s.readV x).getLsbD j && (s.readV y).getLsbD j)) ∧
    (∃ t, exec (.xor x y) s = .next t ∧ KeepsRegsBut (· = x) s t ∧ KeepsAllButRegs s t ∧
      ∀ j, (t.readV x).getLsbD j = ((s.readV x).getLsbD j ^^ (s.readV y).getLsbD j))

/-- R157: 8XY4 writes the sum modulo 256, and VF is the carry for every X and Y; with X = 15 the carry is what remains
(the order behind it is the spec's decision D9). -/
def Obligations.AddWritesTheSumAndItsCarry : Prop :=
  ∀ (s : State) (x y : Reg), ∃ t, exec (.addReg x y) s = .next t ∧
    (x ≠ 15 → (t.readV x).toNat = ((s.readV x).toNat + (s.readV y).toNat) % 256) ∧
    t.readV 15 = (if 255 < (s.readV x).toNat + (s.readV y).toNat then 0x01 else 0x00) ∧
    KeepsRegsBut (fun r => r = x ∨ r = 15) s t ∧ KeepsAllButRegs s t

/-- R158 and R160: 8XY5 and 8XY7 write the difference modulo 256, and VF is the borrow itself, not its complement, for
every X and Y; with X = 15 the borrow is what remains (decision D9). -/
def Obligations.SubtractionsWriteTheDifferenceAndItsBorrow : Prop :=
  ∀ (s : State) (x y : Reg),
    (∃ t, exec (.sub x y) s = .next t ∧
      (x ≠ 15 → (t.readV x).toNat = ((s.readV x).toNat + 256 - (s.readV y).toNat) % 256) ∧
      t.readV 15 = (if (s.readV x).toNat < (s.readV y).toNat then 0x01 else 0x00) ∧
      KeepsRegsBut (fun r => r = x ∨ r = 15) s t ∧ KeepsAllButRegs s t) ∧
    (∃ t, exec (.subn x y) s = .next t ∧
      (x ≠ 15 → (t.readV x).toNat = ((s.readV y).toNat + 256 - (s.readV x).toNat) % 256) ∧
      t.readV 15 = (if (s.readV y).toNat < (s.readV x).toNat then 0x01 else 0x00) ∧
      KeepsRegsBut (fun r => r = x ∨ r = 15) s t ∧ KeepsAllButRegs s t)

/-- R159 and R161: the shifts move `V[Y]` by one place, and VF is the bit shifted out, for every X and Y; with X = 15
that bit is what remains (decision D9). `V[Y]` stays unless it is X or VF. -/
def Obligations.ShiftsMoveVyAndKeepTheBitShiftedOut : Prop :=
  ∀ (s : State) (x y : Reg),
    (∃ t, exec (.shr x y) s = .next t ∧ (x ≠ 15 → (t.readV x).toNat = (s.readV y).toNat / 2) ∧
      t.readV 15 = (if (s.readV y).toNat % 2 = 1 then 0x01 else 0x00) ∧
      KeepsRegsBut (fun r => r = x ∨ r = 15) s t ∧ KeepsAllButRegs s t) ∧
    (∃ t, exec (.shl x y) s = .next t ∧ (x ≠ 15 → (t.readV x).toNat = (2 * (s.readV y).toNat) % 256) ∧
      t.readV 15 = (if 128 ≤ (s.readV y).toNat then 0x01 else 0x00) ∧
      KeepsRegsBut (fun r => r = x ∨ r = 15) s t ∧ KeepsAllButRegs s t)

/-! ## Index register and memory -/

/-- R170, R171, R172: ANNN, FX1E and FX29 set `I` to 16 bits and change nothing else, VF with it. -/
def Obligations.IndexInstructionsSetIAlone : Prop :=
  ∀ (s : State) (x : Reg) (nnn : Addr),
    (∃ t, exec (.ldI nnn) s = .next t ∧ t.i.toNat = nnn.toNat ∧ KeepsAllButIndex s t) ∧
    (∃ t, exec (.addI x) s = .next t ∧ t.i.toNat = (s.i.toNat + (s.readV x).toNat) % 65536 ∧ KeepsAllButIndex s t) ∧
    (∃ t, exec (.ldF x) s = .next t ∧ t.i.toNat = (s.readV x).toNat * 5 ∧ KeepsAllButIndex s t)

/-- R56, R54: the effective address is `(I + k) mod 4096` (decision D7), and the at most 16 addresses of one instruction
are pairwise distinct. -/
def Obligations.EffectiveAddressesWrapAndAreDistinct : Prop :=
  ∀ (s : State) (j k : Nat), (s.ea k).toNat = (s.i.toNat + k) % 4096 ∧ (j < 16 → k < 16 → s.ea j = s.ea k → j = k)

/-- R173: FX33 stores the three decimal digits at `EA(0)`, `EA(1)`, `EA(2)` and nothing else, and leaves `I` (decisions
D7, D8). -/
def Obligations.BcdStoresThreeDigits : Prop :=
  ∀ (s : State) (x : Reg), ∃ t, exec (.ldB x) s = .next t ∧
    (t.readMem (s.ea 0)).toNat = (s.readV x).toNat / 100 ∧
    (t.readMem (s.ea 1)).toNat = (s.readV x).toNat / 10 % 10 ∧
    (t.readMem (s.ea 2)).toNat = (s.readV x).toNat % 10 ∧
    KeepsMemoryBut (fun a => a = s.ea 0 ∨ a = s.ea 1 ∨ a = s.ea 2) s t ∧ KeepsAllButMemory s t

/-- R174: FX55 stores `V[k]` at `EA(k)` for every `k` up to X and nothing else, and leaves `I` (decisions D7, D8). -/
def Obligations.BlockStoreWritesTheRegisters : Prop :=
  ∀ (s : State) (x : Reg), ∃ t, exec (.ldMemVx x) s = .next t ∧
    (∀ k : Reg, k.toNat ≤ x.toNat → t.readMem (s.ea k.toNat) = s.readV k) ∧
    KeepsMemoryBut (fun a => ∃ k, k ≤ x.toNat ∧ a = s.ea k) s t ∧ KeepsAllButMemory s t

/-- R175: FX65 loads `V[k]` from `EA(k)` for every `k` up to X and writes no other register, and leaves `I` (decisions
D7, D8). -/
def Obligations.BlockLoadFillsTheRegisters : Prop :=
  ∀ (s : State) (x : Reg), ∃ t, exec (.ldVxMem x) s = .next t ∧
    (∀ k : Reg, k.toNat ≤ x.toNat → t.readV k = s.readMem (s.ea k.toNat)) ∧
    KeepsRegsBut (fun r => r.toNat ≤ x.toNat) s t ∧ KeepsAllButRegs s t

/-- R174 with R175: what FX55 stored, FX65 with the same X and `I` brings back, whatever the registers are by then. -/
def Obligations.BlockLoadBringsBackABlockStore : Prop :=
  ∀ (s : State) (x : Reg), ∃ t, exec (.ldMemVx x) s = .next t ∧
    ∀ u : State, u.mem = t.mem → u.i = s.i →
      ∃ w, exec (.ldVxMem x) u = .next w ∧ ∀ k : Reg, k.toNat ≤ x.toNat → w.readV k = s.readV k

/-! ## The mediator -/

/-- R196 and R197: CLS makes its request and changes nothing of the CORE; RND makes its request and writes
`NN & answer` to `V[X]` alone, the answer being the one pending, or else any byte (assumptions 5, 7 and 8). -/
def Obligations.ClearAndRandomMakeTheirRequests : Prop :=
  ∀ (s : State) (x : Reg) (nn : Byte), s.env.silent = false →
    (∃ t, exec .cls s = .next t ∧ t.env.trace = s.env.trace ++ [.request .clearDisplay] ∧ KeepsCore s t) ∧
    (∃ t, exec (.rnd x nn) s = .next t ∧ t.env.trace = s.env.trace ++ [.request .getRandomByte] ∧
      (∃ answer, t.readV x = nn &&& answer ∧
        ∀ b bs, s.env.randoms = b :: bs → answer = b ∧ t.env.randoms = bs) ∧
      KeepsRegsBut (· = x) s t ∧ KeepsCoreButRegs s t)

/-- R198: DRW requests the sprite at `EA(0)` to `EA(N - 1)` with unreduced coordinates, VF is the collision bit on every
execution, and nothing else of the CORE changes (decisions D7, D8, D20; assumptions 5, 7 and 8). -/
def Obligations.DrawSendsTheSpriteAndSetsTheFlag : Prop :=
  ∀ (s : State) (x y : Reg) (n : BitVec 4), s.env.silent = false → ∃ t, exec (.drw x y n) s = .next t ∧
    (∃ bytes : List Byte, bytes.length = n.toNat ∧ (∀ k (h : k < bytes.length), bytes[k] = s.readMem (s.ea k)) ∧
      t.env.trace = s.env.trace ++ [.request (.drawSprite (s.readV x) (s.readV y) bytes)]) ∧
    (∃ collided : Bool, t.readV 15 = (if collided then 0x01 else 0x00) ∧
      ∀ c cs, s.env.collisions = c :: cs → collided = c ∧ t.env.collisions = cs) ∧
    KeepsRegsBut (· = 15) s t ∧ KeepsCoreButRegs s t

/-- R199 and R200: the key skips compare the whole answer (decision D11) with the low nibble of `V[X]` and change `pc`
alone (modulo 65536: decision D4); the pending answer is used up (assumptions 5, 7 and 8). -/
def Obligations.KeySkipsCompareTheLowNibble : Prop :=
  ∀ (s : State) (x : Reg), s.env.silent = false → ∃ key : Byte, (∀ b bs, s.env.keys = b :: bs → key = b) ∧
    (∃ t, exec (.skp x) s = .next t ∧ t.env.keys = s.env.keys.tail ∧
      t.pc.toNat = (if key.toNat = (s.readV x).toNat % 16 then (s.pc.toNat + 2) % 65536 else s.pc.toNat) ∧
      t.env.trace = s.env.trace ++ [.request .getCurrentKey] ∧ KeepsCoreButPc s t) ∧
    (∃ t, exec (.sknp x) s = .next t ∧ t.env.keys = s.env.keys.tail ∧
      t.pc.toNat = (if key.toNat ≠ (s.readV x).toNat % 16 then (s.pc.toNat + 2) % 65536 else s.pc.toNat) ∧
      t.env.trace = s.env.trace ++ [.request .getCurrentKey] ∧ KeepsCoreButPc s t)

/-- R201: FX0A asks once; with the sentinel 0x10 it takes `pc` two back and writes no register, else it writes the key to
`V[X]` alone and leaves `pc` (decisions D4, D10, D11; assumptions 5, 7 and 8). -/
def Obligations.KeyWaitStoresTheKeyOrGoesBack : Prop :=
  ∀ (s : State) (x : Reg), s.env.silent = false → ∃ (key : Byte) (t : State), exec (.ldVxK x) s = .next t ∧
    (∀ b bs, s.env.keys = b :: bs → key = b ∧ t.env.keys = bs) ∧
    t.env.trace = s.env.trace ++ [.request .getCurrentKey] ∧
    (key = 0x10 → t.pc.toNat = (s.pc.toNat + 65534) % 65536 ∧ KeepsCoreButPc s t) ∧
    (key ≠ 0x10 → t.readV x = key ∧ KeepsRegsBut (· = x) s t ∧ KeepsCoreButRegs s t)

/-- R201, R109, the source's property S10: a program in an FX0A stays as it is for as many steps as the mediator reports
no key, and the first step that reports one completes the instruction (decision D10), the mediator answering as many
requests as that takes (assumption 7). -/
def Obligations.KeyWaitPollsUntilAKeyIsReported : Prop :=
  ∀ (s : State) (x : Reg) (n : Nat) (key : Byte) (keys : List Byte), s.env.driver = [] → s.pc.toNat < 0xE8F →
    s.opcodeAtPc = encode (.ldVxK x) → s.env.keys = List.replicate n 0x10 ++ key :: keys → key ≠ 0x10 →
    (∀ m, s.env.answersLeft = some m → n < m) →
    (∃ t, Host.Core.run core n s = .next t ∧ KeepsCore s t) ∧
    (∃ t, Host.Core.run core (n + 1) s = .next t ∧ t.pc = s.pc + 2 ∧ t.readV x = key ∧
      KeepsRegsBut (· = x) s t ∧ t.env.keys = keys)

/-- R105 and R202: an instruction makes the one request its row says, or none, with its payload read before it writes;
it uses up no answer to another kind of request, and it leaves the driver's commands alone. -/
def Obligations.EachInstructionMakesItsOneRequest : Prop :=
  ∀ (i : Instr) (s t : State), exec i s = .next t →
    t.env.trace = s.env.trace ++ ((requestOf i s).map Event.request).toList ∧ t.env.driver = s.env.driver ∧
    (requestOf i s ≠ some .getCurrentKey → t.env.keys = s.env.keys) ∧
    (requestOf i s ≠ some .getRandomByte → t.env.randoms = s.env.randoms) ∧
    ((∀ x y bytes, requestOf i s ≠ some (.drawSprite x y bytes)) → t.env.collisions = s.env.collisions)

/-- R17: the trace is only ever added to (the model's record, assumption 8), by at most one event a step: R105 with R190
and R106, by decision D17 (assumption 33) none outside `execute`. -/
def Obligations.TheTraceIsOnlyAddedTo : Prop :=
  ∀ s t : State, step s = .next t → ∃ events : List Event, events.length ≤ 1 ∧ t.env.trace = s.env.trace ++ events

/-- R193: pending answers that keep the key contract keep it after every step. R201 (decisions D10 and D4): an FX0A
answered with the sentinel goes back and writes no register, and one answered with a key index stores it, 0 to 15. -/
def Obligations.TheKeyContractIsKept : Prop :=
  (∀ s t : State, s.KeysKeepContract → step s = .next t → t.KeysKeepContract) ∧
  ∀ (s t : State) (x : Reg), exec (.ldVxK x) s = .next t →
    (s.keyAnswer = 0x10 → t.pc.toNat = (s.pc.toNat + 65534) % 65536 ∧ KeepsRegs s t) ∧
    (s.keyAnswer.toNat < 16 → t.pc = s.pc ∧ t.readV x = s.keyAnswer ∧ (t.readV x).toNat ≤ 15)

/-- R191, R192, the spec's fixture of R203 (decision D21; not part of the CORE): after a clear no pixel is lit; a sprite
of at most 32 rows reports a collision exactly when some pixel goes from lit to unlit. -/
def Obligations.ReferenceDrawReportsLitPixelsGoingOut : Prop :=
  (∀ (m : RefMediator) r c, Surface.at m.clear.px r c = false) ∧
  ∀ (px : Surface) (x y : Byte) (bytes : List Byte), bytes.length ≤ 32 →
    ((Surface.draw px x y bytes).1 = true ↔
      ∃ r c, Surface.at px r c = true ∧ Surface.at (Surface.draw px x y bytes).2 r c = false)

/-! ## Timers -/

/-- R220, R221, R222: FX07 reads `dt`; FX15 and FX18 write `dt` and `st`; nothing else changes. -/
def Obligations.TimerInstructionsMoveOneByte : Prop :=
  ∀ (s : State) (x : Reg),
    (∃ t, exec (.ldVxDt x) s = .next t ∧ t.readV x = s.dt ∧ KeepsRegsBut (· = x) s t ∧ KeepsAllButRegs s t) ∧
    (∃ t, exec (.ldDtVx x) s = .next t ∧ t.dt = s.readV x ∧ t.st = s.st ∧ KeepsRegs s t ∧ t.i = s.i ∧
      t.pc = s.pc ∧ KeepsStack s t ∧ KeepsMemory s t ∧ t.env = s.env) ∧
    (∃ t, exec (.ldStVx x) s = .next t ∧ t.st = s.readV x ∧ t.dt = s.dt ∧ KeepsRegs s t ∧ t.i = s.i ∧
      t.pc = s.pc ∧ KeepsStack s t ∧ KeepsMemory s t ∧ t.env = s.env)

/-- R246: a tick takes 1 off each timer that is not 0 and changes nothing else, makes no request (decision D17), and `n`
ticks take `n` off, stopping at 0. -/
def Obligations.TicksCountTheTimersDownToZero : Prop :=
  ∀ s : State, (∃ t, s.perform .tickTimers = .next t ∧ t.dt.toNat = s.dt.toNat - 1 ∧ t.st.toNat = s.st.toNat - 1 ∧
      KeepsRegs s t ∧ t.i = s.i ∧ t.pc = s.pc ∧ KeepsStack s t ∧ KeepsMemory s t ∧ t.env = s.env) ∧
    ∀ n : Nat, (State.tickTimers^[n] s).dt.toNat = s.dt.toNat - n ∧ (State.tickTimers^[n] s).st.toNat = s.st.toNat - n

/-! ## The no-op -/

/-- R230: a word of the unmatched space takes `pc` two on and changes nothing else; as an instruction, after E1, it
changes nothing at all (decisions D12 and D4). -/
def Obligations.UnmatchedWordsOnlyAdvancePc : Prop :=
  (∀ (s : State) (w : Word), unmatchedWord w = true →
    ∃ t, s.execute w = .next t ∧ t.pc.toNat = (s.pc.toNat + 2) % 65536 ∧ KeepsAllButPc s t) ∧
  ∀ (s : State) (w : Word), exec (.nop w) s = .next s

/-- R230, R102 (program P6(c)): through zeroed memory the machine walks `n` no-ops up to the ceiling, and changes nothing
but `pc`; there the next `fetch` is at 0x200 (decision D3). -/
def Obligations.ZeroedMemoryIsWalkedUpToTheCeiling : Prop :=
  ∀ (s : State) (n : Nat), s.env.driver = [] → s.pc.toNat + 2 * n ≤ 0xE90 →
    (∀ a : Addr, s.pc.toNat ≤ a.toNat → a.toNat < s.pc.toNat + 2 * n → s.readMem a = 0x00) →
    ∃ t, Host.Core.run core n s = .next t ∧ t.pc.toNat = s.pc.toNat + 2 * n ∧ KeepsAllButPc s t ∧
      (0xE8F ≤ t.pc.toNat → t.wrapPc.pc = 0x200)

/-! ## The load commands -/

/-- R254: a load fails exactly when the source is unreadable or the copy would pass the ceiling, no other command fails,
and a failed load changes nothing. The record of results is the model's (assumption 8); the readable flag and the
unbounded base are decisions D24 and D14 (assumption 19). -/
def Obligations.LoadsFailExactlyWhenTheyMustAndChangeNothing : Prop :=
  ∀ (c : Command) (s t : State), s.perform c = .next t →
    (t.env.trace = s.env.trace ++ [.loadFail] ↔ c.mustFail) ∧ (c.mustFail → KeepsCore s t)

/-- R62: a `loadBytes` that fits below the ceiling writes its bytes from the base on, in order, and nothing else, `pc`
with it (decision D14). -/
def Obligations.LoadBytesCopiesAndKeepsTheRest : Prop :=
  ∀ (s : State) (base : Word) (bytes : List Byte), base.toNat + bytes.length ≤ 0xE8F →
    ∃ t, s.perform (.loadBytes base bytes) = .next t ∧ t.env.trace = s.env.trace ++ [.loadOk] ∧
      (∀ k (h : k < bytes.length), t.readMem (BitVec.ofNat 12 (base.toNat + k)) = bytes[k]) ∧
      KeepsMemoryBut (fun a => base.toNat ≤ a.toNat ∧ a.toNat < base.toNat + bytes.length) s t ∧
      KeepsCoreButMemory s t

/-- R63: a readable program of at most 3215 bytes is copied to 0x200 and `pc` is set to 0x200; registers, stack, timers
and all other memory stay (decision D24). -/
def Obligations.LoadProgramCopiesAndSetsPc : Prop :=
  ∀ (s : State) (bytes : List Byte), bytes.length ≤ 3215 →
    ∃ t, s.perform (.loadProgram true bytes) = .next t ∧ t.env.trace = s.env.trace ++ [.loadOk] ∧ t.pc = 0x200 ∧
      (∀ k (h : k < bytes.length), t.readMem (BitVec.ofNat 12 (0x200 + k)) = bytes[k]) ∧
      KeepsMemoryBut (fun a => 0x200 ≤ a.toNat ∧ a.toNat < 0x200 + bytes.length) s t ∧
      KeepsRegs s t ∧ t.i = s.i ∧ KeepsStack s t ∧ KeepsTimers s t

/-! ## Whole-machine rules -/

/-- R54: no instruction but FX33 and FX55 changes a byte of memory, and FX33 and FX55 change at most the three, the
X + 1, bytes at their effective addresses. -/
def Obligations.OnlyTheTwoStoresWriteMemory : Prop :=
  ∀ (i : Instr) (s t : State), exec i s = .next t → ∀ a : Addr,
    (∀ x k, i = .ldB x → k < 3 → a ≠ s.ea k) → (∀ x k, i = .ldMemVx x → k ≤ x.toNat → a ≠ s.ea k) →
      t.readMem a = s.readMem a

/-- R32: no instruction but 2NNN and 00EE touches `stack` or `sp`, and 00EE writes no entry. -/
def Obligations.OnlyCallAndReturnTouchTheStack : Prop :=
  ∀ (i : Instr) (s t : State), exec i s = .next t → (∀ nnn, i ≠ .call nnn) →
    (∀ k, t.stackAt k = s.stackAt k) ∧ (i ≠ .ret → t.sp = s.sp)

/-- R104, R33: an instruction changes `dt` only as FX15 and `st` only as FX18. -/
def Obligations.InstructionsNeverCountTheTimers : Prop :=
  ∀ (i : Instr) (s t : State), exec i s = .next t →
    ((∀ x, i ≠ .ldDtVx x) → t.dt = s.dt) ∧ ((∀ x, i ≠ .ldStVx x) → t.st = s.st)

/-- R22 and R25: an instruction changes no general register outside the spec's list of writers. -/
def Obligations.RegistersAreWrittenOnlyAsListed : Prop :=
  ∀ (i : Instr) (s t : State), exec i s = .next t → KeepsRegsBut (mayWriteReg i) s t

/-- R29 and R31: after E1 only the listed instructions change `pc`, and only ANNN, FX1E and FX29 change `I`. -/
def Obligations.PcAndIndexAreWrittenOnlyAsListed : Prop :=
  ∀ (i : Instr) (s t : State), exec i s = .next t →
    (¬ mayWritePc i → t.pc = s.pc) ∧
    ((∀ nnn, i ≠ .ldI nnn) → (∀ x, i ≠ .addI x) → (∀ x, i ≠ .ldF x) → t.i = s.i)

/-- The invariant: from every state whose memory has the canonical form, every step leaves one that has it. -/
def Obligations.EveryStepKeepsTheInvariant : Prop :=
  ∀ s t : State, s.Inv → step s = .next t → t.Inv

/-- The canonical form is canonical: two memories of that form that read alike at every address are one list. -/
def Obligations.CanonicalMemoriesThatReadAlikeAreEqual : Prop :=
  ∀ s t : State, s.Inv → t.Inv → KeepsMemory s t → t.mem = s.mem

/-- R33: "No instruction reads `st`": two states that differ in `st` alone step to states that differ in `st` alone, or are
both stuck in the same request (assumption 7). -/
def Obligations.TheSoundTimerInfluencesNothingElse : Prop :=
  ∀ (s : State) (b : Byte), (∃ t u, step s = .next t ∧ step (s.setSt b) = .next u ∧ u.setSt t.st = t) ∨
    ∃ f, step s = .fault f ∧ step (s.setSt b) = .fault f

/-- R282: a program that has halted (a jump to itself below the ceiling) stays as it is for every number of further steps
(decision D19). -/
def Obligations.AHaltedProgramStaysAsItIs : Prop :=
  ∀ (s : State) (n : Nat), s.env.driver = [] → s.Halted → Host.Core.run core n s = .next s
end

