-- ==== Sys2Proof/Laws/Decode.lean ====
section
/-! SUPPORT. The fields of an encoded word are the fields it was made from; a row covers a word when the row's fixed
fields agree with it; a word is its two bytes. -/

namespace Sys2Proof

/-! ## Fields of the layouts -/

@[simp] theorem fieldF_formatA (f : Nat) (nnn : Addr) : fieldF (formatA f nnn) = BitVec.ofNat 4 f := by
  apply BitVec.eq_of_toNat_eq
  have := nnn.isLt
  simp [fieldF, formatA, BitVec.extractLsb'_toNat, Nat.shiftRight_eq_div_pow]
  omega

@[simp] theorem fieldNNN_formatA (f : Nat) (nnn : Addr) : fieldNNN (formatA f nnn) = nnn := by
  apply BitVec.eq_of_toNat_eq
  simp [fieldNNN, formatA]
  exact nnn.isLt

@[simp] theorem fieldF_formatXI (f : Nat) (x : Reg) (nn : Byte) : fieldF (formatXI f x nn) = BitVec.ofNat 4 f := by
  apply BitVec.eq_of_toNat_eq
  have := x.isLt
  have := nn.isLt
  simp [fieldF, formatXI, BitVec.extractLsb'_toNat, Nat.shiftRight_eq_div_pow]
  omega

@[simp] theorem fieldX_formatXI (f : Nat) (x : Reg) (nn : Byte) : fieldX (formatXI f x nn) = x := by
  apply BitVec.eq_of_toNat_eq
  have := nn.isLt
  simp [fieldX, formatXI, BitVec.extractLsb'_toNat, Nat.shiftRight_eq_div_pow]
  omega

@[simp] theorem fieldNN_formatXI (f : Nat) (x : Reg) (nn : Byte) : fieldNN (formatXI f x nn) = nn := by
  apply BitVec.eq_of_toNat_eq
  simp [fieldNN, formatXI]
  omega

@[simp] theorem fieldF_formatXYN (f : Nat) (x y : Reg) (n : BitVec 4) :
    fieldF (formatXYN f x y n) = BitVec.ofNat 4 f := by
  apply BitVec.eq_of_toNat_eq
  have := x.isLt
  have := y.isLt
  have := n.isLt
  simp [fieldF, formatXYN, BitVec.extractLsb'_toNat, Nat.shiftRight_eq_div_pow]
  omega

@[simp] theorem fieldX_formatXYN (f : Nat) (x y : Reg) (n : BitVec 4) : fieldX (formatXYN f x y n) = x := by
  apply BitVec.eq_of_toNat_eq
  have := y.isLt
  have := n.isLt
  simp [fieldX, formatXYN, BitVec.extractLsb'_toNat, Nat.shiftRight_eq_div_pow]
  omega

@[simp] theorem fieldY_formatXYN (f : Nat) (x y : Reg) (n : BitVec 4) : fieldY (formatXYN f x y n) = y := by
  apply BitVec.eq_of_toNat_eq
  have := n.isLt
  simp [fieldY, formatXYN, BitVec.extractLsb'_toNat, Nat.shiftRight_eq_div_pow]
  omega

@[simp] theorem fieldN_formatXYN (f : Nat) (x y : Reg) (n : BitVec 4) : fieldN (formatXYN f x y n) = n := by
  apply BitVec.eq_of_toNat_eq
  simp [fieldN, formatXYN]
  omega

/-! ## Rows -/

/-- The mask 0xF000 compares the family. -/
theorem covers_of_family {w p : Word} (hF : fieldF w = fieldF p) (hp : p &&& 0xF000 = p) :
    OpcodeRow.covers ⟨0xF000, p⟩ w = true := by
  simp only [OpcodeRow.covers, beq_iff_eq]
  rw [← hp]
  apply BitVec.eq_of_getLsbD_eq
  intro i hi
  have h : ∀ j, (fieldF w).getLsbD j = (fieldF p).getLsbD j := fun j => by rw [hF]
  have h0 := h 0
  have h1 := h 1
  have h2 := h 2
  have h3 := h 3
  simp [fieldF] at h0 h1 h2 h3
  interval_cases i <;> simp [*]

/-- The mask 0xF00F compares the family and N. -/
theorem covers_of_family_n {w p : Word} (hF : fieldF w = fieldF p) (hN : fieldN w = fieldN p)
    (hp : p &&& 0xF00F = p) : OpcodeRow.covers ⟨0xF00F, p⟩ w = true := by
  simp only [OpcodeRow.covers, beq_iff_eq]
  rw [← hp]
  apply BitVec.eq_of_getLsbD_eq
  intro i hi
  have h : ∀ j, (fieldF w).getLsbD j = (fieldF p).getLsbD j := fun j => by rw [hF]
  have g : ∀ j, (fieldN w).getLsbD j = (fieldN p).getLsbD j := fun j => by rw [hN]
  have h0 := h 0
  have h1 := h 1
  have h2 := h 2
  have h3 := h 3
  have g0 := g 0
  have g1 := g 1
  have g2 := g 2
  have g3 := g 3
  simp [fieldF, fieldN] at h0 h1 h2 h3 g0 g1 g2 g3
  interval_cases i <;> simp [*]

/-- The mask 0xF0FF compares the family and NN. -/
theorem covers_of_family_nn {w p : Word} (hF : fieldF w = fieldF p) (hNN : fieldNN w = fieldNN p)
    (hp : p &&& 0xF0FF = p) : OpcodeRow.covers ⟨0xF0FF, p⟩ w = true := by
  simp only [OpcodeRow.covers, beq_iff_eq]
  rw [← hp]
  apply BitVec.eq_of_getLsbD_eq
  intro i hi
  have h : ∀ j, (fieldF w).getLsbD j = (fieldF p).getLsbD j := fun j => by rw [hF]
  have g : ∀ j, (fieldNN w).getLsbD j = (fieldNN p).getLsbD j := fun j => by rw [hNN]
  have h0 := h 0
  have h1 := h 1
  have h2 := h 2
  have h3 := h 3
  have g0 := g 0
  have g1 := g 1
  have g2 := g 2
  have g3 := g 3
  have g4 := g 4
  have g5 := g 5
  have g6 := g 6
  have g7 := g 7
  simp [fieldF, fieldNN] at h0 h1 h2 h3 g0 g1 g2 g3 g4 g5 g6 g7
  interval_cases i <;> simp [*]

/-! ## Bytes -/

/-- A word is its two bytes, high byte first. -/
@[simp] theorem wordOfBytes_highByte_lowByte (w : Word) : wordOfBytes (highByte w) (lowByte w) = w := by
  apply BitVec.eq_of_toNat_eq
  have := w.isLt
  simp [wordOfBytes, highByte, lowByte, BitVec.extractLsb'_toNat, Nat.shiftRight_eq_div_pow]
  omega

@[simp] theorem highByte_wordOfBytes (hi lo : Byte) : highByte (wordOfBytes hi lo) = hi := by
  apply BitVec.eq_of_toNat_eq
  have := hi.isLt
  have := lo.isLt
  simp [wordOfBytes, highByte, BitVec.extractLsb'_toNat, Nat.shiftRight_eq_div_pow]
  omega

@[simp] theorem lowByte_wordOfBytes (hi lo : Byte) : lowByte (wordOfBytes hi lo) = lo := by
  apply BitVec.eq_of_toNat_eq
  have := hi.isLt
  have := lo.isLt
  simp [wordOfBytes, lowByte, BitVec.extractLsb'_toNat, Nat.shiftRight_eq_div_pow]
  omega

end Sys2Proof
end

