-- ==== Sys2Proof/Laws/State.lean ====
section
/-! SUPPORT. One lemma per field per update, each true by rfl, so that no proof unfolds a record update. -/

namespace Sys2Proof.Machine

variable (s : State)

/-! ## setV -/

@[simp] theorem State.setV_i (x : Reg) (b : Byte) : (s.setV x b).i = s.i := rfl
@[simp] theorem State.setV_pc (x : Reg) (b : Byte) : (s.setV x b).pc = s.pc := rfl
@[simp] theorem State.setV_sp (x : Reg) (b : Byte) : (s.setV x b).sp = s.sp := rfl
@[simp] theorem State.setV_stack (x : Reg) (b : Byte) : (s.setV x b).stack = s.stack := rfl
@[simp] theorem State.setV_dt (x : Reg) (b : Byte) : (s.setV x b).dt = s.dt := rfl
@[simp] theorem State.setV_st (x : Reg) (b : Byte) : (s.setV x b).st = s.st := rfl
@[simp] theorem State.setV_mem (x : Reg) (b : Byte) : (s.setV x b).mem = s.mem := rfl
@[simp] theorem State.setV_env (x : Reg) (b : Byte) : (s.setV x b).env = s.env := rfl
@[simp] theorem State.readMem_setV (x : Reg) (b : Byte) (c : Addr) : (s.setV x b).readMem c = s.readMem c := rfl
@[simp] theorem State.stackAt_setV (x : Reg) (b : Byte) (k : Fin 16) : (s.setV x b).stackAt k = s.stackAt k := rfl
@[simp] theorem State.ea_setV (x : Reg) (b : Byte) (k : Nat) : (s.setV x b).ea k = s.ea k := rfl

/-! ## setI -/

@[simp] theorem State.setI_v (w : Word) : (s.setI w).v = s.v := rfl
@[simp] theorem State.setI_i (w : Word) : (s.setI w).i = w := rfl
@[simp] theorem State.setI_pc (w : Word) : (s.setI w).pc = s.pc := rfl
@[simp] theorem State.setI_sp (w : Word) : (s.setI w).sp = s.sp := rfl
@[simp] theorem State.setI_stack (w : Word) : (s.setI w).stack = s.stack := rfl
@[simp] theorem State.setI_dt (w : Word) : (s.setI w).dt = s.dt := rfl
@[simp] theorem State.setI_st (w : Word) : (s.setI w).st = s.st := rfl
@[simp] theorem State.setI_mem (w : Word) : (s.setI w).mem = s.mem := rfl
@[simp] theorem State.setI_env (w : Word) : (s.setI w).env = s.env := rfl
@[simp] theorem State.readV_setI (w : Word) (y : Reg) : (s.setI w).readV y = s.readV y := rfl
@[simp] theorem State.readMem_setI (w : Word) (c : Addr) : (s.setI w).readMem c = s.readMem c := rfl
@[simp] theorem State.stackAt_setI (w : Word) (k : Fin 16) : (s.setI w).stackAt k = s.stackAt k := rfl

/-! ## setPc -/

@[simp] theorem State.setPc_v (w : Word) : (s.setPc w).v = s.v := rfl
@[simp] theorem State.setPc_i (w : Word) : (s.setPc w).i = s.i := rfl
@[simp] theorem State.setPc_pc (w : Word) : (s.setPc w).pc = w := rfl
@[simp] theorem State.setPc_sp (w : Word) : (s.setPc w).sp = s.sp := rfl
@[simp] theorem State.setPc_stack (w : Word) : (s.setPc w).stack = s.stack := rfl
@[simp] theorem State.setPc_dt (w : Word) : (s.setPc w).dt = s.dt := rfl
@[simp] theorem State.setPc_st (w : Word) : (s.setPc w).st = s.st := rfl
@[simp] theorem State.setPc_mem (w : Word) : (s.setPc w).mem = s.mem := rfl
@[simp] theorem State.setPc_env (w : Word) : (s.setPc w).env = s.env := rfl
@[simp] theorem State.readV_setPc (w : Word) (y : Reg) : (s.setPc w).readV y = s.readV y := rfl
@[simp] theorem State.readMem_setPc (w : Word) (c : Addr) : (s.setPc w).readMem c = s.readMem c := rfl
@[simp] theorem State.stackAt_setPc (w : Word) (k : Fin 16) : (s.setPc w).stackAt k = s.stackAt k := rfl
@[simp] theorem State.ea_setPc (w : Word) (k : Nat) : (s.setPc w).ea k = s.ea k := rfl

/-! ## setDt -/

@[simp] theorem State.setDt_v (b : Byte) : (s.setDt b).v = s.v := rfl
@[simp] theorem State.setDt_i (b : Byte) : (s.setDt b).i = s.i := rfl
@[simp] theorem State.setDt_pc (b : Byte) : (s.setDt b).pc = s.pc := rfl
@[simp] theorem State.setDt_sp (b : Byte) : (s.setDt b).sp = s.sp := rfl
@[simp] theorem State.setDt_stack (b : Byte) : (s.setDt b).stack = s.stack := rfl
@[simp] theorem State.setDt_dt (b : Byte) : (s.setDt b).dt = b := rfl
@[simp] theorem State.setDt_st (b : Byte) : (s.setDt b).st = s.st := rfl
@[simp] theorem State.setDt_mem (b : Byte) : (s.setDt b).mem = s.mem := rfl
@[simp] theorem State.setDt_env (b : Byte) : (s.setDt b).env = s.env := rfl
@[simp] theorem State.readV_setDt (b : Byte) (y : Reg) : (s.setDt b).readV y = s.readV y := rfl
@[simp] theorem State.readMem_setDt (b : Byte) (c : Addr) : (s.setDt b).readMem c = s.readMem c := rfl
@[simp] theorem State.stackAt_setDt (b : Byte) (k : Fin 16) : (s.setDt b).stackAt k = s.stackAt k := rfl
@[simp] theorem State.ea_setDt (b : Byte) (k : Nat) : (s.setDt b).ea k = s.ea k := rfl

/-! ## setSt -/

@[simp] theorem State.setSt_v (b : Byte) : (s.setSt b).v = s.v := rfl
@[simp] theorem State.setSt_i (b : Byte) : (s.setSt b).i = s.i := rfl
@[simp] theorem State.setSt_pc (b : Byte) : (s.setSt b).pc = s.pc := rfl
@[simp] theorem State.setSt_sp (b : Byte) : (s.setSt b).sp = s.sp := rfl
@[simp] theorem State.setSt_stack (b : Byte) : (s.setSt b).stack = s.stack := rfl
@[simp] theorem State.setSt_dt (b : Byte) : (s.setSt b).dt = s.dt := rfl
@[simp] theorem State.setSt_st (b : Byte) : (s.setSt b).st = b := rfl
@[simp] theorem State.setSt_mem (b : Byte) : (s.setSt b).mem = s.mem := rfl
@[simp] theorem State.setSt_env (b : Byte) : (s.setSt b).env = s.env := rfl
@[simp] theorem State.readV_setSt (b : Byte) (y : Reg) : (s.setSt b).readV y = s.readV y := rfl
@[simp] theorem State.readMem_setSt (b : Byte) (c : Addr) : (s.setSt b).readMem c = s.readMem c := rfl
@[simp] theorem State.stackAt_setSt (b : Byte) (k : Fin 16) : (s.setSt b).stackAt k = s.stackAt k := rfl
@[simp] theorem State.ea_setSt (b : Byte) (k : Nat) : (s.setSt b).ea k = s.ea k := rfl

/-! ## writeMem -/

@[simp] theorem State.writeMem_v (a : Addr) (b : Byte) : (s.writeMem a b).v = s.v := rfl
@[simp] theorem State.writeMem_i (a : Addr) (b : Byte) : (s.writeMem a b).i = s.i := rfl
@[simp] theorem State.writeMem_pc (a : Addr) (b : Byte) : (s.writeMem a b).pc = s.pc := rfl
@[simp] theorem State.writeMem_sp (a : Addr) (b : Byte) : (s.writeMem a b).sp = s.sp := rfl
@[simp] theorem State.writeMem_stack (a : Addr) (b : Byte) : (s.writeMem a b).stack = s.stack := rfl
@[simp] theorem State.writeMem_dt (a : Addr) (b : Byte) : (s.writeMem a b).dt = s.dt := rfl
@[simp] theorem State.writeMem_st (a : Addr) (b : Byte) : (s.writeMem a b).st = s.st := rfl
@[simp] theorem State.writeMem_mem (a : Addr) (b : Byte) : (s.writeMem a b).mem = Memory.write s.mem a b := rfl
@[simp] theorem State.writeMem_env (a : Addr) (b : Byte) : (s.writeMem a b).env = s.env := rfl
@[simp] theorem State.readV_writeMem (a : Addr) (b : Byte) (y : Reg) : (s.writeMem a b).readV y = s.readV y := rfl
@[simp] theorem State.stackAt_writeMem (a : Addr) (b : Byte) (k : Fin 16) : (s.writeMem a b).stackAt k = s.stackAt k := rfl
@[simp] theorem State.ea_writeMem (a : Addr) (b : Byte) (k : Nat) : (s.writeMem a b).ea k = s.ea k := rfl

/-! ## pushCall -/

@[simp] theorem State.pushCall_v (w : Word) : (s.pushCall w).v = s.v := rfl
@[simp] theorem State.pushCall_i (w : Word) : (s.pushCall w).i = s.i := rfl
@[simp] theorem State.pushCall_pc (w : Word) : (s.pushCall w).pc = s.pc := rfl
@[simp] theorem State.pushCall_sp (w : Word) : (s.pushCall w).sp = if s.sp < spMax then s.sp + 1 else s.sp := rfl
@[simp] theorem State.pushCall_dt (w : Word) : (s.pushCall w).dt = s.dt := rfl
@[simp] theorem State.pushCall_st (w : Word) : (s.pushCall w).st = s.st := rfl
@[simp] theorem State.pushCall_mem (w : Word) : (s.pushCall w).mem = s.mem := rfl
@[simp] theorem State.pushCall_env (w : Word) : (s.pushCall w).env = s.env := rfl
@[simp] theorem State.readV_pushCall (w : Word) (y : Reg) : (s.pushCall w).readV y = s.readV y := rfl
@[simp] theorem State.readMem_pushCall (w : Word) (c : Addr) : (s.pushCall w).readMem c = s.readMem c := rfl
@[simp] theorem State.ea_pushCall (w : Word) (k : Nat) : (s.pushCall w).ea k = s.ea k := rfl

/-! ## popCall -/

@[simp] theorem State.popCall_v : (s.popCall).v = s.v := rfl
@[simp] theorem State.popCall_i : (s.popCall).i = s.i := rfl
@[simp] theorem State.popCall_pc : (s.popCall).pc = s.pc := rfl
@[simp] theorem State.popCall_sp : (s.popCall).sp = s.spAfterPop := rfl
@[simp] theorem State.popCall_stack : (s.popCall).stack = s.stack := rfl
@[simp] theorem State.popCall_dt : (s.popCall).dt = s.dt := rfl
@[simp] theorem State.popCall_st : (s.popCall).st = s.st := rfl
@[simp] theorem State.popCall_mem : (s.popCall).mem = s.mem := rfl
@[simp] theorem State.popCall_env : (s.popCall).env = s.env := rfl
@[simp] theorem State.readV_popCall (y : Reg) : (s.popCall).readV y = s.readV y := rfl
@[simp] theorem State.readMem_popCall (c : Addr) : (s.popCall).readMem c = s.readMem c := rfl
@[simp] theorem State.stackAt_popCall (k : Fin 16) : (s.popCall).stackAt k = s.stackAt k := rfl
@[simp] theorem State.ea_popCall (k : Nat) : (s.popCall).ea k = s.ea k := rfl

/-! ## tickTimers -/

@[simp] theorem State.tickTimers_v : (s.tickTimers).v = s.v := rfl
@[simp] theorem State.tickTimers_i : (s.tickTimers).i = s.i := rfl
@[simp] theorem State.tickTimers_pc : (s.tickTimers).pc = s.pc := rfl
@[simp] theorem State.tickTimers_sp : (s.tickTimers).sp = s.sp := rfl
@[simp] theorem State.tickTimers_stack : (s.tickTimers).stack = s.stack := rfl
@[simp] theorem State.tickTimers_dt : (s.tickTimers).dt = tickByte s.dt := rfl
@[simp] theorem State.tickTimers_st : (s.tickTimers).st = tickByte s.st := rfl
@[simp] theorem State.tickTimers_mem : (s.tickTimers).mem = s.mem := rfl
@[simp] theorem State.tickTimers_env : (s.tickTimers).env = s.env := rfl
@[simp] theorem State.readV_tickTimers (y : Reg) : (s.tickTimers).readV y = s.readV y := rfl
@[simp] theorem State.readMem_tickTimers (c : Addr) : (s.tickTimers).readMem c = s.readMem c := rfl
@[simp] theorem State.stackAt_tickTimers (k : Fin 16) : (s.tickTimers).stackAt k = s.stackAt k := rfl
@[simp] theorem State.ea_tickTimers (k : Nat) : (s.tickTimers).ea k = s.ea k := rfl

/-! ## emit -/

@[simp] theorem State.emit_v (e : Event) : (s.emit e).v = s.v := rfl
@[simp] theorem State.emit_i (e : Event) : (s.emit e).i = s.i := rfl
@[simp] theorem State.emit_pc (e : Event) : (s.emit e).pc = s.pc := rfl
@[simp] theorem State.emit_sp (e : Event) : (s.emit e).sp = s.sp := rfl
@[simp] theorem State.emit_stack (e : Event) : (s.emit e).stack = s.stack := rfl
@[simp] theorem State.emit_dt (e : Event) : (s.emit e).dt = s.dt := rfl
@[simp] theorem State.emit_st (e : Event) : (s.emit e).st = s.st := rfl
@[simp] theorem State.emit_mem (e : Event) : (s.emit e).mem = s.mem := rfl
@[simp] theorem State.readV_emit (e : Event) (y : Reg) : (s.emit e).readV y = s.readV y := rfl
@[simp] theorem State.readMem_emit (e : Event) (c : Addr) : (s.emit e).readMem c = s.readMem c := rfl
@[simp] theorem State.stackAt_emit (e : Event) (k : Fin 16) : (s.emit e).stackAt k = s.stackAt k := rfl
@[simp] theorem State.ea_emit (e : Event) (k : Nat) : (s.emit e).ea k = s.ea k := rfl

/-! ## request -/

@[simp] theorem State.request_v (r : Request) : (s.request r).v = s.v := rfl
@[simp] theorem State.request_i (r : Request) : (s.request r).i = s.i := rfl
@[simp] theorem State.request_pc (r : Request) : (s.request r).pc = s.pc := rfl
@[simp] theorem State.request_sp (r : Request) : (s.request r).sp = s.sp := rfl
@[simp] theorem State.request_stack (r : Request) : (s.request r).stack = s.stack := rfl
@[simp] theorem State.request_dt (r : Request) : (s.request r).dt = s.dt := rfl
@[simp] theorem State.request_st (r : Request) : (s.request r).st = s.st := rfl
@[simp] theorem State.request_mem (r : Request) : (s.request r).mem = s.mem := rfl
@[simp] theorem State.request_env (r : Request) : (s.request r).env = s.env.afterRequest r := rfl
@[simp] theorem State.readV_request (r : Request) (y : Reg) : (s.request r).readV y = s.readV y := rfl
@[simp] theorem State.readMem_request (r : Request) (c : Addr) : (s.request r).readMem c = s.readMem c := rfl
@[simp] theorem State.stackAt_request (r : Request) (k : Fin 16) : (s.request r).stackAt k = s.stackAt k := rfl
@[simp] theorem State.ea_request (r : Request) (k : Nat) : (s.request r).ea k = s.ea k := rfl

/-! ## setDriver -/

@[simp] theorem State.setDriver_v (cs : List Command) : (s.setDriver cs).v = s.v := rfl
@[simp] theorem State.setDriver_i (cs : List Command) : (s.setDriver cs).i = s.i := rfl
@[simp] theorem State.setDriver_pc (cs : List Command) : (s.setDriver cs).pc = s.pc := rfl
@[simp] theorem State.setDriver_sp (cs : List Command) : (s.setDriver cs).sp = s.sp := rfl
@[simp] theorem State.setDriver_stack (cs : List Command) : (s.setDriver cs).stack = s.stack := rfl
@[simp] theorem State.setDriver_dt (cs : List Command) : (s.setDriver cs).dt = s.dt := rfl
@[simp] theorem State.setDriver_st (cs : List Command) : (s.setDriver cs).st = s.st := rfl
@[simp] theorem State.setDriver_mem (cs : List Command) : (s.setDriver cs).mem = s.mem := rfl
@[simp] theorem State.readV_setDriver (cs : List Command) (y : Reg) : (s.setDriver cs).readV y = s.readV y := rfl
@[simp] theorem State.readMem_setDriver (cs : List Command) (c : Addr) : (s.setDriver cs).readMem c = s.readMem c := rfl
@[simp] theorem State.stackAt_setDriver (cs : List Command) (k : Fin 16) : (s.setDriver cs).stackAt k = s.stackAt k := rfl
@[simp] theorem State.ea_setDriver (cs : List Command) (k : Nat) : (s.setDriver cs).ea k = s.ea k := rfl

/-! ## The outside -/

@[simp] theorem State.emit_trace (e : Event) : (s.emit e).env.trace = s.env.trace ++ [e] := rfl
@[simp] theorem State.setDriver_driver (cs : List Command) : (s.setDriver cs).env.driver = cs := rfl
@[simp] theorem State.setDriver_keys (cs : List Command) : (s.setDriver cs).env.keys = s.env.keys := rfl
@[simp] theorem State.setDriver_randoms (cs : List Command) : (s.setDriver cs).env.randoms = s.env.randoms := rfl
@[simp] theorem State.setDriver_collisions (cs : List Command) : (s.setDriver cs).env.collisions = s.env.collisions :=
  rfl
@[simp] theorem State.setDriver_asked (cs : List Command) : (s.setDriver cs).env.asked = s.env.asked := rfl
@[simp] theorem State.setDriver_silent (cs : List Command) : (s.setDriver cs).env.silent = s.env.silent := rfl
@[simp] theorem State.emit_silent (e : Event) : (s.emit e).env.silent = s.env.silent := rfl
@[simp] theorem State.setDriver_trace (cs : List Command) : (s.setDriver cs).env.trace = s.env.trace := rfl
@[simp] theorem Env.afterRequest_driver (e : Env) (r : Request) : (e.afterRequest r).driver = e.driver := by
  cases r <;> rfl
@[simp] theorem Env.afterRequest_trace (e : Env) (r : Request) :
    (e.afterRequest r).trace = e.trace ++ [.request r] := by
  cases r <;> rfl
@[simp] theorem Env.afterRequest_asked (e : Env) (r : Request) : (e.afterRequest r).asked = e.asked + 1 := by
  cases r <;> rfl
@[simp] theorem Env.afterRequest_answersLeft (e : Env) (r : Request) :
    (e.afterRequest r).answersLeft = e.answersLeft.map (· - 1) := by
  cases r <;> rfl

/-- A mediator that answers for ever goes on doing so. -/
theorem Env.afterRequest_silent_of_none {e : Env} (h : e.answersLeft = none) (r : Request) :
    (e.afterRequest r).silent = false := by
  simp [Env.silent, h]

theorem Env.silent_eq_true_iff (e : Env) : e.silent = true ↔ e.answersLeft = some 0 := by
  simp [Env.silent]

theorem Env.silent_eq_false_iff (e : Env) : e.silent = false ↔ e.answersLeft ≠ some 0 := by
  simp [Env.silent]

/-! ## The program counter's moves are writes of pc -/

theorem State.advance_eq : s.advance = s.setPc (s.pc + 2) := rfl
theorem State.skip_eq : s.skip = s.setPc (s.pc + 2) := rfl
theorem State.stay_eq : s.stay = s.setPc (s.pc - 2) := rfl

/-- A conditional skip is one write of pc. -/
theorem State.skipIf_eq (c : Bool) : s.skipIf c = s.setPc (if c then s.pc + 2 else s.pc) := by
  cases c <;> rfl

/-- The wrap of fetch is one write of pc. -/
theorem State.wrapPc_eq : s.wrapPc = s.setPc (if loadCeil ≤ s.pc.toNat then loadBase else s.pc) := by
  unfold State.wrapPc
  split <;> rfl

/-- A state is given by its nine fields. -/
theorem State.ext_fields {s t : State} (hv : s.v = t.v) (hi : s.i = t.i) (hpc : s.pc = t.pc) (hsp : s.sp = t.sp)
    (hstack : s.stack = t.stack) (hdt : s.dt = t.dt) (hst : s.st = t.st) (hmem : s.mem = t.mem)
    (henv : s.env = t.env) : s = t := by
  cases s
  cases t
  simp_all

end Sys2Proof.Machine
end

