-- ==== Sys2Proof/Laws/Memory.lean ====
section
/-! SUPPORT. Memory: read after write, a write leaves every other cell alone, and every operation keeps the canonical
form. The read laws hold of every list, canonical or not. -/

namespace Sys2Proof.Machine

/-! ## Listed bytes -/

@[simp] theorem Memory.find_put_self (m : Memory) (a : Nat) (b : Byte) : (Memory.put m a b).find a = some b := by
  induction m with
  | nil => simp [Memory.put, Memory.find]
  | cons e m ih =>
    obtain ⟨k, c⟩ := e
    rcases Nat.lt_trichotomy a k with h | h | h
    · simp [Memory.put, Memory.find, h]
    · simp [Memory.put, Memory.find, h]
    · simp [Memory.put, Memory.find, Nat.not_lt.2 h.le, h.ne', h.ne, ih]

@[simp] theorem Memory.find_put_other (m : Memory) {a k : Nat} (b : Byte) (h : k ≠ a) :
    (Memory.put m a b).find k = m.find k := by
  induction m with
  | nil => simp [Memory.put, Memory.find, h.symm]
  | cons e m ih =>
    obtain ⟨j, c⟩ := e
    rcases Nat.lt_trichotomy a j with hj | hj | hj
    · simp [Memory.put, Memory.find, hj, h.symm]
    · subst hj
      simp [Memory.put, Memory.find, h.symm]
    · simp [Memory.put, Memory.find, Nat.not_lt.2 hj.le, hj.ne', ih]

@[simp] theorem Memory.find_drop_self (m : Memory) (a : Nat) : (Memory.drop m a).find a = none := by
  induction m with
  | nil => rfl
  | cons e m ih =>
    obtain ⟨k, c⟩ := e
    by_cases h : k = a <;> simp [Memory.drop, Memory.find, h, ih]

@[simp] theorem Memory.find_drop_other (m : Memory) {a k : Nat} (h : k ≠ a) : (Memory.drop m a).find k = m.find k := by
  induction m with
  | nil => rfl
  | cons e m ih =>
    obtain ⟨j, c⟩ := e
    by_cases hj : j = a
    · subst hj
      simp [Memory.drop, Memory.find, h.symm, ih]
    · simp [Memory.drop, Memory.find, hj, ih]

/-! ## Read after write -/

/-- A read after a write to the same cell gives the value written. -/
@[simp] theorem Memory.read_write_self (m : Memory) (a : Addr) (b : Byte) : (Memory.write m a b).read a = b := by
  unfold Memory.read Memory.write
  split
  · next h => simp [h]
  · simp

/-- A write leaves every other cell alone. -/
@[simp] theorem Memory.read_write_other (m : Memory) {a c : Addr} (b : Byte) (h : c ≠ a) :
    (Memory.write m a b).read c = m.read c := by
  have hn : c.toNat ≠ a.toNat := fun e => h (BitVec.eq_of_toNat_eq e)
  unfold Memory.read Memory.write
  split <;> simp [hn]

@[simp] theorem State.readMem_writeMem_self (s : State) (a : Addr) (b : Byte) : (s.writeMem a b).readMem a = b :=
  Memory.read_write_self s.mem a b

@[simp] theorem State.readMem_writeMem_other (s : State) {a c : Addr} (b : Byte) (h : c ≠ a) :
    (s.writeMem a b).readMem c = s.readMem c :=
  Memory.read_write_other s.mem b h

/-- A read after a write, both cases at once. -/
theorem State.readMem_writeMem (s : State) (a c : Addr) (b : Byte) :
    (s.writeMem a b).readMem c = if c = a then b else s.readMem c := by
  split
  · next h => simp [h]
  · next h => simp [h]

/-! ## The canonical form -/

/-- The form from a later address on is the form from an earlier one. -/
theorem Memory.wfFrom_mono {lo hi : Nat} (h : lo ≤ hi) {m : Memory} (hm : Memory.wfFrom hi m = true) :
    Memory.wfFrom lo m = true := by
  cases m with
  | nil => rfl
  | cons e m =>
    obtain ⟨k, b⟩ := e
    simp only [Memory.wfFrom, Bool.and_eq_true, decide_eq_true_eq] at hm ⊢
    exact ⟨⟨⟨h.trans hm.1.1.1, hm.1.1.2⟩, hm.1.2⟩, hm.2⟩

theorem Memory.wfFrom_put {lo a : Nat} {m : Memory} {b : Byte} (hm : Memory.wfFrom lo m = true) (hlo : lo ≤ a)
    (ha : a < 4096) (hb : b ≠ resetByte a) : Memory.wfFrom lo (Memory.put m a b) = true := by
  induction m generalizing lo with
  | nil => simp [Memory.put, Memory.wfFrom, hlo, ha, hb]
  | cons e m ih =>
    obtain ⟨k, c⟩ := e
    simp only [Memory.wfFrom, Bool.and_eq_true, decide_eq_true_eq] at hm
    obtain ⟨⟨⟨h1, h2⟩, h3⟩, h4⟩ := hm
    rcases Nat.lt_trichotomy a k with h | h | h
    · simp [Memory.put, Memory.wfFrom, h, hlo, ha, hb, h2, h3, h4, Nat.succ_le_of_lt h]
    · subst h
      simp [Memory.put, Memory.wfFrom, hlo, ha, hb, h4]
    · simp [Memory.put, Memory.wfFrom, Nat.not_lt.2 h.le, h.ne', h1, h2, h3, ih h4 (Nat.succ_le_of_lt h)]

theorem Memory.wfFrom_drop {lo : Nat} {m : Memory} (a : Nat) (hm : Memory.wfFrom lo m = true) :
    Memory.wfFrom lo (Memory.drop m a) = true := by
  induction m generalizing lo with
  | nil => rfl
  | cons e m ih =>
    obtain ⟨k, c⟩ := e
    simp only [Memory.wfFrom, Bool.and_eq_true, decide_eq_true_eq] at hm
    obtain ⟨⟨⟨h1, h2⟩, h3⟩, h4⟩ := hm
    by_cases h : k = a
    · simpa [Memory.drop, h] using Memory.wfFrom_mono (by omega : lo ≤ k + 1) (ih h4)
    · simp [Memory.drop, Memory.wfFrom, h, h1, h2, h3, ih h4]

/-- A write keeps the canonical form. -/
theorem Memory.wf_write {m : Memory} (a : Addr) (b : Byte) (hm : m.wf = true) : (Memory.write m a b).wf = true := by
  unfold Memory.write
  split
  · exact Memory.wfFrom_drop _ hm
  · next h => exact Memory.wfFrom_put hm (Nat.zero_le _) a.isLt h

/-- One byte to memory keeps the canonical form. -/
theorem State.wf_writeMem {s : State} (a : Addr) (b : Byte) (h : s.mem.wf = true) : (s.writeMem a b).mem.wf = true :=
  Memory.wf_write a b h

/-- The copy of a load command keeps the canonical form. -/
theorem State.wf_copyBytes {s : State} (base : Nat) (bs : List Byte) (h : s.mem.wf = true) :
    (s.copyBytes base bs).mem.wf = true := by
  induction bs generalizing s base with
  | nil => exact h
  | cons b bs ih => exact ih (base + 1) (State.wf_writeMem _ b h)

/-- The block store keeps the canonical form. -/
theorem State.wf_storeRegs {s : State} (n : Nat) (h : s.mem.wf = true) : (s.storeRegs n).mem.wf = true := by
  induction n with
  | zero => exact h
  | succ n ih => exact State.wf_writeMem _ _ ih

/-- Memory at reset has the canonical form: nothing is listed. -/
theorem Memory.wf_reset : State.reset.mem.wf = true := rfl

/-- An address that memory does not list reads as its reset contents. -/
theorem Memory.read_unlisted (a : Addr) : Memory.read [] a = resetByte a.toNat := rfl

end Sys2Proof.Machine
end

