-- ==== Sys2Proof/Laws/Ops.lean ====
section
/-! SUPPORT. One lemma per shared operation that says everything it can do, for proofs to cite instead of unfolding it. -/

namespace Sys2Proof.Machine

/-! ## Registers -/

theorem State.readV_setV (s : State) (x y : Reg) (b : Byte) :
    (s.setV x b).readV y = if y = x then b else s.readV y := by
  unfold State.readV State.setV
  rw [Vector.getElem_set]
  by_cases h : y = x
  · simp [h]
  · have : x.toNat ≠ y.toNat := fun e => h (BitVec.eq_of_toNat_eq e.symm)
    simp [h, this]

@[simp] theorem State.readV_setV_self (s : State) (x : Reg) (b : Byte) : (s.setV x b).readV x = b := by
  simp [State.readV_setV]

@[simp] theorem State.readV_setV_other (s : State) {x y : Reg} (b : Byte) (h : y ≠ x) :
    (s.setV x b).readV y = s.readV y := by
  simp [State.readV_setV, h]

/-- The flag is written last: VF holds it whatever `x` is (R150). -/
theorem State.readV_setResult (s : State) (x y : Reg) (r : Byte) (f : Bool) :
    (s.setResult x r f).readV y = if y = vf then flagByte f else if y = x then r else s.readV y := by
  simp [State.setResult, State.setFlag, State.readV_setV]

theorem State.readV_setFlag (s : State) (y : Reg) (f : Bool) :
    (s.setFlag f).readV y = if y = vf then flagByte f else s.readV y := by
  simp [State.setFlag, State.readV_setV]

/-- A result with a flag writes registers and nothing else. -/
theorem State.setResult_eq (s : State) (x : Reg) (r : Byte) (f : Bool) :
    s.setResult x r f = { s with v := (s.setResult x r f).v } := rfl

/-- A register number made from a number below 16. -/
theorem reg_ofNat_eq_iff (k : Nat) (hk : k < 16) (r : Reg) : r = BitVec.ofNat 4 k ↔ r.toNat = k := by
  constructor
  · rintro rfl
    simp [BitVec.toNat_ofNat, Nat.mod_eq_of_lt hk]
  · intro h
    apply BitVec.eq_of_toNat_eq
    simp [h, Nat.mod_eq_of_lt hk]

/-! ## The call stack -/

/-- A push stores at `sp` and leaves every other entry. -/
theorem State.stackAt_pushCall (s : State) (w : Word) (k : Fin 16) :
    (s.pushCall w).stackAt k = if k = s.sp then w else s.stackAt k := by
  unfold State.stackAt State.pushCall
  simp only [Vector.getElem_set, Fin.ext_iff]
  by_cases h : s.sp.val = k.val
  · simp [h]
  · simp [h, Ne.symm h]

/-- A push advances the stack pointer by one, but not beyond 15. -/
theorem State.pushCall_sp_val (s : State) (w : Word) : (s.pushCall w).sp.val = min 15 (s.sp.val + 1) := by
  rw [State.pushCall_sp]
  have h := s.sp.isLt
  by_cases hlt : s.sp < spMax
  · have : s.sp.val < 15 := hlt
    rw [if_pos hlt, Fin.val_add_eq_of_add_lt]
    · simp
      omega
    · simp
      omega
  · have : ¬ s.sp.val < 15 := hlt
    rw [if_neg hlt]
    omega

/-- A pop takes one off the stack pointer, but not below 0. -/
theorem State.spAfterPop_val (s : State) : s.spAfterPop.val = s.sp.val - 1 := by
  unfold State.spAfterPop
  split
  · next h =>
    have h1 : (1 : Fin 16) ≤ s.sp := by
      have : 0 < s.sp.val := h
      exact this
    rw [Fin.sub_val_of_le h1]
    rfl
  · next h =>
    have : ¬ 0 < s.sp.val := h
    omega

/-! ## Memory blocks -/

/-- Offsets below 4096 give distinct effective addresses (R54). -/
theorem State.ea_inj (s : State) {j k : Nat} (hj : j < 4096) (hk : k < 4096) : s.ea j = s.ea k ↔ j = k := by
  constructor
  · intro h
    have h' := congrArg BitVec.toNat h
    simp only [State.ea, BitVec.toNat_ofNat] at h'
    omega
  · rintro rfl
    rfl

/-- The block store writes nothing but memory. -/
theorem State.storeRegs_eq (s : State) (n : Nat) : s.storeRegs n = { s with mem := (s.storeRegs n).mem } := by
  induction n with
  | zero => rfl
  | succ n ih =>
    rw [State.storeRegs, ih]
    rfl

/-- Outside its bytes the block store leaves memory alone. -/
theorem State.readMem_storeRegs_other (s : State) (n : Nat) {a : Addr} (h : ∀ k < n, a ≠ s.ea k) :
    (s.storeRegs n).readMem a = s.readMem a := by
  induction n with
  | zero => rfl
  | succ n ih =>
    rw [State.storeRegs, State.readMem_writeMem_other _ _ (h n n.lt_succ_self)]
    exact ih fun k hk => h k (by omega)

/-- The block store puts each register at its own address. -/
theorem State.readMem_storeRegs (s : State) {n k : Nat} (hk : k < n) (hn : n ≤ 4096) :
    (s.storeRegs n).readMem (s.ea k) = s.readV (BitVec.ofNat 4 k) := by
  induction n with
  | zero => omega
  | succ n ih =>
    rw [State.storeRegs, State.readMem_writeMem]
    by_cases h : k = n
    · simp [h]
    · rw [if_neg fun e => h ((State.ea_inj s (by omega) (by omega)).1 e)]
      exact ih (by omega) (by omega)

/-- The block load writes nothing but registers. -/
theorem State.loadRegs_eq (s : State) (n : Nat) : s.loadRegs n = { s with v := (s.loadRegs n).v } := by
  induction n with
  | zero => rfl
  | succ n ih =>
    rw [State.loadRegs, ih]
    rfl

/-- The block load fills the registers below `n` from their addresses and leaves the others. -/
theorem State.readV_loadRegs (s : State) {n : Nat} (hn : n ≤ 16) (r : Reg) :
    (s.loadRegs n).readV r = if r.toNat < n then s.readMem (s.ea r.toNat) else s.readV r := by
  induction n with
  | zero => rfl
  | succ n ih =>
    simp only [State.loadRegs, State.readV_setV, reg_ofNat_eq_iff n (by omega : n < 16), ih (by omega)]
    rcases Nat.lt_trichotomy r.toNat n with h | h | h
    · simp [h, h.ne, Nat.lt_succ_of_lt h]
    · simp [h]
    · rw [if_neg h.ne', if_neg (by omega), if_neg (by omega)]

/-- The copy of a load command writes nothing but memory. -/
theorem State.copyBytes_eq (s : State) (base : Nat) (bs : List Byte) :
    s.copyBytes base bs = { s with mem := (s.copyBytes base bs).mem } := by
  induction bs generalizing s base with
  | nil => rfl
  | cons b bs ih =>
    rw [State.copyBytes, ih]
    rfl

/-- The copy of a load command: byte `k` at `base + k`, every other address as before. -/
theorem State.readMem_copyBytes (s : State) (base : Nat) (bs : List Byte) (h : base + bs.length ≤ 4096) (a : Addr) :
    (s.copyBytes base bs).readMem a =
      if base ≤ a.toNat ∧ a.toNat < base + bs.length then bs.getD (a.toNat - base) 0 else s.readMem a := by
  induction bs generalizing s base with
  | nil => simp [State.copyBytes]
  | cons b bs ih =>
    simp only [List.length_cons] at h
    have hb : base < 4096 := by omega
    have ha : a = BitVec.ofNat 12 base ↔ a.toNat = base := by
      constructor
      · rintro rfl
        simp [Nat.mod_eq_of_lt hb]
      · intro e
        apply BitVec.eq_of_toNat_eq
        simp [e, Nat.mod_eq_of_lt hb]
    rw [State.copyBytes, ih _ _ (by omega), State.readMem_writeMem, List.length_cons]
    rcases Nat.lt_trichotomy a.toNat base with h1 | h1 | h1
    · rw [if_neg (by omega), if_neg fun e => h1.ne (ha.1 e), if_neg (by omega)]
    · rw [if_neg (by omega), if_pos (ha.2 h1), if_pos (by omega)]
      simp [h1]
    · by_cases h2 : a.toNat < base + (bs.length + 1)
      · obtain ⟨j, hj⟩ : ∃ j, a.toNat - base = j + 1 := ⟨a.toNat - base - 1, by omega⟩
        rw [if_pos (by omega), if_pos (by omega), hj, List.getD_cons_succ]
        congr 1
        omega
      · rw [if_neg (by omega), if_neg fun e => h1.ne' (ha.1 e), if_neg (by omega)]

/-! ## fetch -/

/-- After F1 `pc` is below the ceiling (R101). -/
theorem State.wrapPc_below (s : State) : s.wrapPc.pc.toNat < loadCeil := by
  rw [State.wrapPc_eq, State.setPc_pc]
  split
  · decide
  · omega

/-- F1 does nothing below the ceiling. -/
theorem State.wrapPc_of_below {s : State} (h : s.pc.toNat < loadCeil) : s.wrapPc = s := by
  rw [State.wrapPc_eq, if_neg (by omega)]
  rfl

/-- F1 is idempotent. -/
theorem State.wrapPc_wrapPc (s : State) : s.wrapPc.wrapPc = s.wrapPc := State.wrapPc_of_below s.wrapPc_below

/-- The opcode at `pc` depends on `pc` and memory alone. -/
theorem State.opcodeAtPc_congr {s t : State} (hpc : t.pc = s.pc) (hmem : t.mem = s.mem) :
    t.opcodeAtPc = s.opcodeAtPc := by
  simp only [State.opcodeAtPc, State.readMem, hpc, hmem]

/-! ## Requests -/

/-- A request is answered, and the instruction finishes on the state after it. -/
theorem State.ask_of_answering {s : State} (h : s.env.silent = false) (r : Request) (finish : State → State) :
    s.ask r finish = .next (finish (s.request r)) := by
  simp [State.ask, h]

/-- A request is never answered, and the step is stuck in it. -/
theorem State.ask_of_silent {s : State} (h : s.env.silent = true) (r : Request) (finish : State → State) :
    s.ask r finish = .fault (.mediatorSilent r) := by
  simp [State.ask, h]

/-- All a request can lead to. -/
theorem State.ask_cases (s : State) (r : Request) (finish : State → State) :
    (s.env.silent = true ∧ s.ask r finish = .fault (.mediatorSilent r)) ∨
    (s.env.silent = false ∧ s.ask r finish = .next (finish (s.request r))) := by
  cases h : s.env.silent
  · exact .inr ⟨rfl, State.ask_of_answering h r finish⟩
  · exact .inl ⟨rfl, State.ask_of_silent h r finish⟩

/-- A request that ends in a next state was answered, and that state is the finished one. -/
theorem State.ask_eq_next_iff (s t : State) (r : Request) (finish : State → State) :
    s.ask r finish = .next t ↔ s.env.silent = false ∧ finish (s.request r) = t := by
  cases h : s.env.silent <;> simp [State.ask, h]

/-- A request that ends in a fault was not answered, and the fault names it. -/
theorem State.ask_eq_fault_iff (s : State) (r : Request) (finish : State → State) (f : Fault) :
    s.ask r finish = .fault f ↔ s.env.silent = true ∧ Fault.mediatorSilent r = f := by
  cases h : s.env.silent <;> simp [State.ask, h]

/-! ## The commands and the step -/

theorem State.execute_eq (s : State) (w : Word) : s.execute w = exec (decodeWord w) (s.setPc (s.pc + 2)) := rfl

theorem State.fetchExecute_eq (s : State) :
    s.fetchExecute = exec (decodeWord s.wrapPc.opcodeAtPc) (s.wrapPc.setPc (s.wrapPc.pc + 2)) := rfl

@[simp] theorem State.perform_step (s : State) : s.perform .step = s.fetchExecute := rfl
@[simp] theorem State.perform_fetch (s : State) :
    s.perform .fetch = .next (s.wrapPc.emit (.fetched s.wrapPc.opcodeAtPc)) := rfl
@[simp] theorem State.perform_execute (s : State) (w : Word) : s.perform (.execute w) = s.execute w := rfl
@[simp] theorem State.perform_tickTimers (s : State) : s.perform .tickTimers = .next s.tickTimers := rfl
@[simp] theorem State.perform_reset (s : State) : s.perform .reset = .next { State.reset with env := s.env } := rfl
@[simp] theorem State.perform_loadBytes (s : State) (base : Word) (bytes : List Byte) :
    s.perform (.loadBytes base bytes) = .next (s.reportLoad (s.tryLoadBytes base bytes)) := rfl
@[simp] theorem State.perform_loadProgram (s : State) (readable : Bool) (bytes : List Byte) :
    s.perform (.loadProgram readable bytes) = .next (s.reportLoad (s.tryLoadProgram readable bytes)) := rfl

/-- What `loadBytes` does, both cases. -/
theorem State.loadBytes_cases (s : State) (base : Word) (bytes : List Byte) :
    (loadCeil < base.toNat + bytes.length ∧ s.tryLoadBytes base bytes = none) ∨
    (base.toNat + bytes.length ≤ loadCeil ∧ s.tryLoadBytes base bytes = some (s.copyBytes base.toNat bytes)) := by
  unfold State.tryLoadBytes
  by_cases h : loadCeil < base.toNat + bytes.length
  · exact .inl ⟨h, if_pos h⟩
  · exact .inr ⟨Nat.not_lt.1 h, if_neg h⟩

/-- What `loadProgram` does, all three cases. -/
theorem State.loadProgram_cases (s : State) (readable : Bool) (bytes : List Byte) :
    (readable = false ∧ s.tryLoadProgram readable bytes = none) ∨
    (3215 < bytes.length ∧ s.tryLoadProgram readable bytes = none) ∨
    (readable = true ∧ bytes.length ≤ 3215 ∧
      s.tryLoadProgram readable bytes = some ((s.copyBytes 0x200 bytes).setPc loadBase)) := by
  cases readable with
  | false => exact .inl ⟨rfl, rfl⟩
  | true =>
    have hb : loadBase.toNat = 0x200 := rfl
    have hc : loadCeil = 0xE8F := rfl
    have e : s.tryLoadProgram true bytes = (s.tryLoadBytes loadBase bytes).map fun t => t.setPc loadBase := rfl
    rcases State.loadBytes_cases s loadBase bytes with ⟨h, h'⟩ | ⟨h, h'⟩
    · rw [h'] at e
      exact .inr (.inl ⟨by omega, e⟩)
    · rw [h', hb] at e
      exact .inr (.inr ⟨rfl, by omega, e⟩)

/-- With no command pending a step is `execute(fetch())`. -/
theorem step_of_idle {s : State} (h : s.env.driver = []) : step s = s.fetchExecute := by
  simp [step, State.runNext, h]

/-- With a command pending a step performs it. -/
theorem step_of_pending {s : State} {c : Command} {cs : List Command} (h : s.env.driver = c :: cs) :
    step s = (s.setDriver cs).perform c := by
  simp [step, State.runNext, h]

/-- A run of no steps. -/
theorem core_run_zero (s : State) : Host.Core.run core 0 s = .next s := rfl

/-- On every machine, a run whose first step goes on is the run from there. -/
theorem run_succ_of_step (M : Host.Core) (n : Nat) {s t : M.State} (h : M.step s = .next t) :
    M.run (n + 1) s = M.run n t := by
  rw [Host.Core.run, h]

/-- A run of this machine whose first step goes on is the run from there. -/
theorem core_run_succ (n : Nat) {s t : State} (h : step s = .next t) :
    Host.Core.run core (n + 1) s = Host.Core.run core n t :=
  run_succ_of_step core n h

end Sys2Proof.Machine
end

