-- ==== Sys2Proof/Laws/Exec.lean ====
section
/-! SUPPORT. exec arm by arm: each instruction's meaning by name, true by rfl, so that no proof unfolds the dispatch. -/

namespace Sys2Proof.Machine

variable (s : State)

@[simp] theorem exec_cls : exec Instr.cls s = execCls s := rfl
@[simp] theorem exec_ret : exec Instr.ret s = execRet s := rfl
@[simp] theorem exec_jp (nnn : Addr) : exec (Instr.jp nnn) s = execJp nnn s := rfl
@[simp] theorem exec_call (nnn : Addr) : exec (Instr.call nnn) s = execCall nnn s := rfl
@[simp] theorem exec_seImm (x : Reg) (nn : Byte) : exec (Instr.seImm x nn) s = execSeImm x nn s := rfl
@[simp] theorem exec_sneImm (x : Reg) (nn : Byte) : exec (Instr.sneImm x nn) s = execSneImm x nn s := rfl
@[simp] theorem exec_seReg (x : Reg) (y : Reg) : exec (Instr.seReg x y) s = execSeReg x y s := rfl
@[simp] theorem exec_ldImm (x : Reg) (nn : Byte) : exec (Instr.ldImm x nn) s = execLdImm x nn s := rfl
@[simp] theorem exec_addImm (x : Reg) (nn : Byte) : exec (Instr.addImm x nn) s = execAddImm x nn s := rfl
@[simp] theorem exec_ldReg (x : Reg) (y : Reg) : exec (Instr.ldReg x y) s = execLdReg x y s := rfl
@[simp] theorem exec_or (x : Reg) (y : Reg) : exec (Instr.or x y) s = execOr x y s := rfl
@[simp] theorem exec_and (x : Reg) (y : Reg) : exec (Instr.and x y) s = execAnd x y s := rfl
@[simp] theorem exec_xor (x : Reg) (y : Reg) : exec (Instr.xor x y) s = execXor x y s := rfl
@[simp] theorem exec_addReg (x : Reg) (y : Reg) : exec (Instr.addReg x y) s = execAddReg x y s := rfl
@[simp] theorem exec_sub (x : Reg) (y : Reg) : exec (Instr.sub x y) s = execSub x y s := rfl
@[simp] theorem exec_shr (x : Reg) (y : Reg) : exec (Instr.shr x y) s = execShr x y s := rfl
@[simp] theorem exec_subn (x : Reg) (y : Reg) : exec (Instr.subn x y) s = execSubn x y s := rfl
@[simp] theorem exec_shl (x : Reg) (y : Reg) : exec (Instr.shl x y) s = execShl x y s := rfl
@[simp] theorem exec_sneReg (x : Reg) (y : Reg) : exec (Instr.sneReg x y) s = execSneReg x y s := rfl
@[simp] theorem exec_ldI (nnn : Addr) : exec (Instr.ldI nnn) s = execLdI nnn s := rfl
@[simp] theorem exec_jpV0 (nnn : Addr) : exec (Instr.jpV0 nnn) s = execJpV0 nnn s := rfl
@[simp] theorem exec_rnd (x : Reg) (nn : Byte) : exec (Instr.rnd x nn) s = execRnd x nn s := rfl
@[simp] theorem exec_drw (x : Reg) (y : Reg) (n : BitVec 4) : exec (Instr.drw x y n) s = execDrw x y n s := rfl
@[simp] theorem exec_skp (x : Reg) : exec (Instr.skp x) s = execSkp x s := rfl
@[simp] theorem exec_sknp (x : Reg) : exec (Instr.sknp x) s = execSknp x s := rfl
@[simp] theorem exec_ldVxDt (x : Reg) : exec (Instr.ldVxDt x) s = execLdVxDt x s := rfl
@[simp] theorem exec_ldVxK (x : Reg) : exec (Instr.ldVxK x) s = execLdVxK x s := rfl
@[simp] theorem exec_ldDtVx (x : Reg) : exec (Instr.ldDtVx x) s = execLdDtVx x s := rfl
@[simp] theorem exec_ldStVx (x : Reg) : exec (Instr.ldStVx x) s = execLdStVx x s := rfl
@[simp] theorem exec_addI (x : Reg) : exec (Instr.addI x) s = execAddI x s := rfl
@[simp] theorem exec_ldF (x : Reg) : exec (Instr.ldF x) s = execLdF x s := rfl
@[simp] theorem exec_ldB (x : Reg) : exec (Instr.ldB x) s = execLdB x s := rfl
@[simp] theorem exec_ldMemVx (x : Reg) : exec (Instr.ldMemVx x) s = execLdMemVx x s := rfl
@[simp] theorem exec_ldVxMem (x : Reg) : exec (Instr.ldVxMem x) s = execLdVxMem x s := rfl
@[simp] theorem exec_nop (w : Word) : exec (Instr.nop w) s = execNop w s := rfl

/-! ## The six instructions that make a request, as requests, for `State.ask_eq_next_iff` and its kin to rewrite -/

theorem execCls_eq_ask : execCls s = s.ask .clearDisplay id := rfl
theorem execRnd_eq_ask (x : Reg) (nn : Byte) :
    execRnd x nn s = s.ask .getRandomByte fun t => t.setV x (nn &&& s.randomAnswer) := rfl
theorem execDrw_eq_ask (x y : Reg) (n : BitVec 4) :
    execDrw x y n s = s.ask (s.drawRequest x y n) fun t => t.setFlag s.collisionAnswer := rfl
theorem execSkp_eq_ask (x : Reg) :
    execSkp x s = s.ask .getCurrentKey fun t => t.skipIf (s.keyAnswer == lowNibble (s.readV x)) := rfl
theorem execSknp_eq_ask (x : Reg) :
    execSknp x s = s.ask .getCurrentKey fun t => t.skipIf (s.keyAnswer != lowNibble (s.readV x)) := rfl
theorem execLdVxK_eq_ask (x : Reg) :
    execLdVxK x s = s.ask .getCurrentKey fun t => if s.keyAnswer = keyNone then t.stay else t.setV x s.keyAnswer := rfl

end Sys2Proof.Machine
end

