-- ==== Sys2Proof/Laws/PerInstr.lean ====
section
/-! SUPPORT. Facts about every instruction as syntax, one lemma per constructor. -/

/-- The encoded word of an instruction stands on the instruction's own row of the opcode map (spec 30_encoding R86):
under the row's mask it is the row's match. -/
def Sys2Proof.Laws.RowMatch.Statement (i : Sys2Proof.Instr) : Prop :=
  i.row.covers (Sys2Proof.encode i) = true

namespace Sys2Proof.Laws.RowMatch

/-- A word of format A whose family is the pattern's. -/
theorem formatA_covers {p : Word} (f : Nat) (nnn : Addr) (hF : BitVec.ofNat 4 f = fieldF p) (hp : p &&& 0xF000 = p) :
    OpcodeRow.covers ⟨0xF000, p⟩ (formatA f nnn) = true :=
  covers_of_family (by simpa using hF) hp

/-- A word of format XI whose family is the pattern's. -/
theorem formatXI_covers {p : Word} (f : Nat) (x : Reg) (nn : Byte) (hF : BitVec.ofNat 4 f = fieldF p)
    (hp : p &&& 0xF000 = p) : OpcodeRow.covers ⟨0xF000, p⟩ (formatXI f x nn) = true :=
  covers_of_family (by simpa using hF) hp

/-- A word of format XYN whose family is the pattern's. -/
theorem formatXYN_covers {p : Word} (f : Nat) (x y : Reg) (n : BitVec 4) (hF : BitVec.ofNat 4 f = fieldF p)
    (hp : p &&& 0xF000 = p) : OpcodeRow.covers ⟨0xF000, p⟩ (formatXYN f x y n) = true :=
  covers_of_family (by simpa using hF) hp

/-- A word of format XY whose family and sub-opcode are the pattern's. -/
theorem formatXY_covers {p : Word} (f : Nat) (x y : Reg) (n : BitVec 4) (hF : BitVec.ofNat 4 f = fieldF p)
    (hN : n = fieldN p) (hp : p &&& 0xF00F = p) : OpcodeRow.covers ⟨0xF00F, p⟩ (formatXYN f x y n) = true :=
  covers_of_family_n (by simpa using hF) (by simpa using hN) hp

/-- A word of format XS whose family and sub-opcode are the pattern's. -/
theorem formatXS_covers {p : Word} (f : Nat) (x : Reg) (nn : Byte) (hF : BitVec.ofNat 4 f = fieldF p)
    (hNN : nn = fieldNN p) (hp : p &&& 0xF0FF = p) : OpcodeRow.covers ⟨0xF0FF, p⟩ (formatXI f x nn) = true :=
  covers_of_family_nn (by simpa using hF) (by simpa using hNN) hp

theorem cls : Statement .cls := rfl
theorem ret : Statement .ret := rfl
theorem jp (nnn : Addr) : Statement (.jp nnn) := formatA_covers _ nnn (by decide) (by decide)
theorem call (nnn : Addr) : Statement (.call nnn) := formatA_covers _ nnn (by decide) (by decide)
theorem seImm (x : Reg) (nn : Byte) : Statement (.seImm x nn) :=
  formatXI_covers _ x nn (by decide) (by decide)
theorem sneImm (x : Reg) (nn : Byte) : Statement (.sneImm x nn) :=
  formatXI_covers _ x nn (by decide) (by decide)
theorem seReg (x y : Reg) : Statement (.seReg x y) :=
  formatXY_covers _ x y _ (by decide) (by decide) (by decide)
theorem ldImm (x : Reg) (nn : Byte) : Statement (.ldImm x nn) :=
  formatXI_covers _ x nn (by decide) (by decide)
theorem addImm (x : Reg) (nn : Byte) : Statement (.addImm x nn) :=
  formatXI_covers _ x nn (by decide) (by decide)
theorem ldReg (x y : Reg) : Statement (.ldReg x y) :=
  formatXY_covers _ x y _ (by decide) (by decide) (by decide)
theorem or (x y : Reg) : Statement (.or x y) :=
  formatXY_covers _ x y _ (by decide) (by decide) (by decide)
theorem and (x y : Reg) : Statement (.and x y) :=
  formatXY_covers _ x y _ (by decide) (by decide) (by decide)
theorem xor (x y : Reg) : Statement (.xor x y) :=
  formatXY_covers _ x y _ (by decide) (by decide) (by decide)
theorem addReg (x y : Reg) : Statement (.addReg x y) :=
  formatXY_covers _ x y _ (by decide) (by decide) (by decide)
theorem sub (x y : Reg) : Statement (.sub x y) :=
  formatXY_covers _ x y _ (by decide) (by decide) (by decide)
theorem shr (x y : Reg) : Statement (.shr x y) :=
  formatXY_covers _ x y _ (by decide) (by decide) (by decide)
theorem subn (x y : Reg) : Statement (.subn x y) :=
  formatXY_covers _ x y _ (by decide) (by decide) (by decide)
theorem shl (x y : Reg) : Statement (.shl x y) :=
  formatXY_covers _ x y _ (by decide) (by decide) (by decide)
theorem sneReg (x y : Reg) : Statement (.sneReg x y) :=
  formatXY_covers _ x y _ (by decide) (by decide) (by decide)
theorem ldI (nnn : Addr) : Statement (.ldI nnn) := formatA_covers _ nnn (by decide) (by decide)
theorem jpV0 (nnn : Addr) : Statement (.jpV0 nnn) := formatA_covers _ nnn (by decide) (by decide)
theorem rnd (x : Reg) (nn : Byte) : Statement (.rnd x nn) :=
  formatXI_covers _ x nn (by decide) (by decide)
theorem drw (x y : Reg) (n : BitVec 4) : Statement (.drw x y n) :=
  formatXYN_covers _ x y n (by decide) (by decide)
theorem skp (x : Reg) : Statement (.skp x) :=
  formatXS_covers _ x _ (by decide) (by decide) (by decide)
theorem sknp (x : Reg) : Statement (.sknp x) :=
  formatXS_covers _ x _ (by decide) (by decide) (by decide)
theorem ldVxDt (x : Reg) : Statement (.ldVxDt x) :=
  formatXS_covers _ x _ (by decide) (by decide) (by decide)
theorem ldVxK (x : Reg) : Statement (.ldVxK x) :=
  formatXS_covers _ x _ (by decide) (by decide) (by decide)
theorem ldDtVx (x : Reg) : Statement (.ldDtVx x) :=
  formatXS_covers _ x _ (by decide) (by decide) (by decide)
theorem ldStVx (x : Reg) : Statement (.ldStVx x) :=
  formatXS_covers _ x _ (by decide) (by decide) (by decide)
theorem addI (x : Reg) : Statement (.addI x) :=
  formatXS_covers _ x _ (by decide) (by decide) (by decide)
theorem ldF (x : Reg) : Statement (.ldF x) :=
  formatXS_covers _ x _ (by decide) (by decide) (by decide)
theorem ldB (x : Reg) : Statement (.ldB x) :=
  formatXS_covers _ x _ (by decide) (by decide) (by decide)
theorem ldMemVx (x : Reg) : Statement (.ldMemVx x) :=
  formatXS_covers _ x _ (by decide) (by decide) (by decide)
theorem ldVxMem (x : Reg) : Statement (.ldVxMem x) :=
  formatXS_covers _ x _ (by decide) (by decide) (by decide)
theorem nop (w : Word) : Statement (.nop w) := by
  simp [Statement, Instr.row, OpcodeRow.covers, encode]

end Sys2Proof.Laws.RowMatch
end

