-- ==== Sys2Proof/Tests/Slice0.lean ====
section
/-! SUPPORT. Own tests. Decode words are written out from the patterns of spec/30_encoding (R82, R86). The expected
results of the one-step tests are those of spec/95_test_vectors, whose label stands in each docstring. The last part
gives, for each obligation with hypotheses, a concrete state and operands that meet them all. -/

namespace Sys2Proof.Tests

open Sys2Proof.Machine

/-! ## Helpers -/

/-- What a reader sees in the next state; nothing if there is none. -/
def seen {α : Type} (o : Host.Outcome State Fault Refusal) (look : State → α) : Option α :=
  match o with
  | .next t => some (look t)
  | .fault _ => none
  | .refused _ => none

/-- One step that fetches and runs this word, placed where the state fetches. -/
def ran {α : Type} (s : State) (w : Nat) (look : State → α) : Option α := seen (step (s.withFetchWord 16 w)) look

/-- The reset state. -/
def r0 : State := State.reset

/-- A state with these key, random and collision answers waiting. -/
def answering (s : State) (keys randoms : List Byte) (collisions : List Bool) : State :=
  { s with env := { s.env with keys := keys, randoms := randoms, collisions := collisions } }

/-- A state with this stack pointer and this one stack entry. -/
def stacked (s : State) (sp k : Fin 16) (w : Word) : State := { s with sp := sp, stack := s.stack.set k.val w }

/-! ## WellFormed refuses an ill-formed term, one for each line of its check -/

theorem test_nop_of_cls_refused : (Instr.nop 0x00E0).wellFormed = false := by decide
theorem test_nop_of_ret_refused : (Instr.nop 0x00EE).wellFormed = false := by decide
theorem test_nop_of_jump_refused : (Instr.nop 0x1234).wellFormed = false := by decide
theorem test_nop_of_family5_refused : (Instr.nop 0x5120).wellFormed = false := by decide
theorem test_nop_of_family8_refused : (Instr.nop 0x812E).wellFormed = false := by decide
theorem test_nop_of_family9_refused : (Instr.nop 0x9120).wellFormed = false := by decide
theorem test_nop_of_familyE_refused : (Instr.nop 0xE29E).wellFormed = false := by decide
theorem test_nop_of_familyF_refused : (Instr.nop 0xF265).wellFormed = false := by decide
theorem test_unmatched_nops_accepted :
    ((Instr.nop 0x0000).wellFormed && (Instr.nop 0x01E0).wellFormed && (Instr.nop 0x5121).wellFormed &&
      (Instr.nop 0x8129).wellFormed && (Instr.nop 0x912F).wellFormed && (Instr.nop 0xE2A0).wellFormed &&
      (Instr.nop 0xF264).wellFormed) = true := by decide

/-! ## Decoding: every constructor by a word written out from its pattern -/

/-- 00E0, 00EE, and format A: 1NNN, 2NNN, ANNN, BNNN. -/
theorem test_decode_formats_W_and_A :
    decodeWord 0b0000000011100000 = .cls ∧ decodeWord 0b0000000011101110 = .ret ∧
    decodeWord 0b0001101010111100 = .jp 0xABC ∧ decodeWord 0b0010101010111100 = .call 0xABC ∧
    decodeWord 0b1010101010111100 = .ldI 0xABC ∧ decodeWord 0b1011101010111100 = .jpV0 0xABC := by decide

/-- Format XI: 3XNN, 4XNN, 6XNN, 7XNN, CXNN. -/
theorem test_decode_format_XI :
    decodeWord 0b0011101000010010 = .seImm 0xA 0x12 ∧ decodeWord 0b0100101000010010 = .sneImm 0xA 0x12 ∧
    decodeWord 0b0110101000010010 = .ldImm 0xA 0x12 ∧ decodeWord 0b0111101000010010 = .addImm 0xA 0x12 ∧
    decodeWord 0b1100101000010010 = .rnd 0xA 0x12 := by decide

/-- Formats XY and XYN: 5XY0, 9XY0, DXYN. -/
theorem test_decode_formats_XY_and_XYN :
    decodeWord 0b0101101010110000 = .seReg 0xA 0xB ∧ decodeWord 0b1001101010110000 = .sneReg 0xA 0xB ∧
    decodeWord 0b1101101010110101 = .drw 0xA 0xB 0x5 := by decide

/-- Family 8: sub-opcodes 0 to 7 and E. -/
theorem test_decode_family_8 :
    decodeWord 0b1000101010110000 = .ldReg 0xA 0xB ∧ decodeWord 0b1000101010110001 = .or 0xA 0xB ∧
    decodeWord 0b1000101010110010 = .and 0xA 0xB ∧ decodeWord 0b1000101010110011 = .xor 0xA 0xB ∧
    decodeWord 0b1000101010110100 = .addReg 0xA 0xB ∧ decodeWord 0b1000101010110101 = .sub 0xA 0xB ∧
    decodeWord 0b1000101010110110 = .shr 0xA 0xB ∧ decodeWord 0b1000101010110111 = .subn 0xA 0xB ∧
    decodeWord 0b1000101010111110 = .shl 0xA 0xB := by decide

/-- Format XS: EX9E, EXA1 and the nine of family F. -/
theorem test_decode_format_XS :
    decodeWord 0b1110101010011110 = .skp 0xA ∧ decodeWord 0b1110101010100001 = .sknp 0xA ∧
    decodeWord 0b1111101000000111 = .ldVxDt 0xA ∧ decodeWord 0b1111101000001010 = .ldVxK 0xA ∧
    decodeWord 0b1111101000010101 = .ldDtVx 0xA ∧ decodeWord 0b1111101000011000 = .ldStVx 0xA ∧
    decodeWord 0b1111101000011110 = .addI 0xA ∧ decodeWord 0b1111101000101001 = .ldF 0xA ∧
    decodeWord 0b1111101000110011 = .ldB 0xA ∧ decodeWord 0b1111101001010101 = .ldMemVx 0xA ∧
    decodeWord 0b1111101001100101 = .ldVxMem 0xA := by decide

/-- 2.8: unmatched words of families 0, 5, 8 and 9. -/
theorem test_decode_unmatched_low : decodeWord 0x00E1 = .nop 0x00E1 ∧ decodeWord 0x01E0 = .nop 0x01E0 ∧
    decodeWord 0x5121 = .nop 0x5121 ∧ decodeWord 0x8128 = .nop 0x8128 ∧ decodeWord 0x812F = .nop 0x812F ∧
    decodeWord 0x9121 = .nop 0x9121 := by decide

/-- 2.8: unmatched words of families E and F. -/
theorem test_decode_unmatched_high : decodeWord 0xE29F = .nop 0xE29F ∧ decodeWord 0xE2A0 = .nop 0xE2A0 ∧
    decodeWord 0xF208 = .nop 0xF208 ∧ decodeWord 0xF256 = .nop 0xF256 ∧ decodeWord 0xF264 = .nop 0xF264 := by decide

/-- R84, R51: the decoder takes two bytes, the high one first, and rejects fewer by name. -/
theorem test_decode_bytes :
    decode [0xA2, 0x2A, 0x60] = .ok (.ldI 0x22A) [0x60] ∧ decode [0xA2] = .rejected .truncated ∧
    decode [] = .rejected .truncated := by decide

/-- The host's view: the word's low bits, and nothing longer than an instruction. -/
theorem test_decode_table_word :
    decodeTableWord 16 0xA22A = some (.ldI 0x22A) ∧ decodeTableWord 8 0xE0 = some .cls ∧
    decodeTableWord 32 0xA22A = none := by decide

/-! ## One step of each instruction -/

/-- MD1. -/
theorem test_cls : ran r0 0x00E0 (fun t => (t.pc, t.env.trace)) = some (0x0202, [.request .clearDisplay]) := by decide
/-- CT5. -/
theorem test_ret : ran (stacked r0 1 0 0x0206) 0x00EE (fun t => (t.pc, t.sp)) = some (0x0206, 0) := by decide
/-- CT10. -/
theorem test_ret_empty_stack :
    ran (stacked r0 0 0 0x0206) 0x00EE (fun t => (t.pc, t.sp)) = some (0x0206, 0) := by decide
/-- CT1. -/
theorem test_jp : ran r0 0x1234 (fun t => t.pc) = some 0x0234 := by decide
/-- CT3. -/
theorem test_jp_beyond_ceiling : ran r0 0x1FFF (fun t => (t.pc, t.wrapPc.pc)) = some (0x0FFF, 0x0200) := by decide
/-- CT4. -/
theorem test_call :
    ran (r0.setPc 0x204) 0x2300 (fun t => (t.pc, t.sp, t.stackAt 0)) = some (0x0300, 1, 0x0206) := by decide
/-- CT7. -/
theorem test_call_at_limit :
    ran (stacked (r0.setPc 0x204) 15 14 0x0ABC) 0x2300 (fun t => (t.sp, t.stackAt 15, t.stackAt 14)) =
      some (15, 0x0206, 0x0ABC) := by decide
/-- SK1. -/
theorem test_se_imm : ran (r0.setV 10 0x05) 0x3A05 (fun t => t.pc) = some 0x0204 := by decide
/-- SK2. -/
theorem test_se_imm_not : ran (r0.setV 10 0x06) 0x3A05 (fun t => t.pc) = some 0x0202 := by decide
/-- SK3. -/
theorem test_sne_imm_not : ran (r0.setV 10 0x05) 0x4A05 (fun t => t.pc) = some 0x0202 := by decide
/-- SK4. -/
theorem test_sne_imm : ran (r0.setV 10 0x06) 0x4A05 (fun t => t.pc) = some 0x0204 := by decide
/-- SK5. -/
theorem test_se_reg : ran ((r0.setV 1 7).setV 2 7) 0x5120 (fun t => t.pc) = some 0x0204 := by decide
/-- SK6. -/
theorem test_se_reg_not : ran ((r0.setV 1 7).setV 2 8) 0x5120 (fun t => t.pc) = some 0x0202 := by decide
/-- AL1. -/
theorem test_ld_imm : ran r0 0x6A2B (fun t => t.readV 10) = some 0x2B := by decide
/-- AL3. -/
theorem test_add_imm_no_carry :
    ran (r0.setV 1 0xFE) 0x7105 (fun t => (t.readV 1, t.readV 15)) = some (0x03, 0x00) := by decide
/-- AL6. -/
theorem test_add_imm_to_vf : ran (r0.setV 15 0x01) 0x7F02 (fun t => t.readV 15) = some 0x03 := by decide
/-- AL7. -/
theorem test_ld_reg : ran (r0.setV 2 0x44) 0x8120 (fun t => (t.readV 1, t.readV 2)) = some (0x44, 0x44) := by decide
/-- AL8. -/
theorem test_or : ran (((r0.setV 1 0xF0).setV 2 0x0C).setV 15 1) 0x8121 (fun t => (t.readV 1, t.readV 15)) =
    some (0xFC, 0x01) := by decide
/-- AL9. -/
theorem test_and : ran (((r0.setV 1 0xF0).setV 2 0x3C).setV 15 1) 0x8122 (fun t => (t.readV 1, t.readV 15)) =
    some (0x30, 0x01) := by decide
/-- AL10. -/
theorem test_xor : ran (((r0.setV 1 0xF0).setV 2 0x3C).setV 15 1) 0x8123 (fun t => (t.readV 1, t.readV 15)) =
    some (0xCC, 0x01) := by decide
/-- 8XY4, 05 + FE. -/
theorem test_add_reg : ran ((r0.setV 1 0x05).setV 2 0xFE) 0x8124 (fun t => (t.readV 1, t.readV 15)) =
    some (0x03, 0x01) := by decide
/-- AL20. -/
theorem test_add_reg_into_vf : ran ((r0.setV 15 0xF0).setV 1 0x20) 0x8F14 (fun t => t.readV 15) = some 0x01 := by decide
/-- 8XY5, 7F - 80. -/
theorem test_sub : ran ((r0.setV 1 0x7F).setV 2 0x80) 0x8125 (fun t => (t.readV 1, t.readV 15)) =
    some (0xFF, 0x01) := by decide
/-- 8XY5, 10 - 10. -/
theorem test_sub_equal : ran ((r0.setV 1 0x10).setV 2 0x10) 0x8125 (fun t => (t.readV 1, t.readV 15)) =
    some (0x00, 0x00) := by decide
/-- AL29. -/
theorem test_shr : ran ((r0.setV 0 0x05).setV 1 0x99) 0x8106 (fun t => (t.readV 1, t.readV 15, t.readV 0)) =
    some (0x02, 0x01, 0x05) := by decide
/-- AL25. -/
theorem test_shr_vf : ran (r0.setV 15 0x02) 0x8FF6 (fun t => t.readV 15) = some 0x00 := by decide
/-- 8XY7, 05 from FE. -/
theorem test_subn : ran ((r0.setV 1 0x05).setV 2 0xFE) 0x8127 (fun t => (t.readV 1, t.readV 15)) =
    some (0xF9, 0x00) := by decide
/-- 8XY7, 80 from 7F. -/
theorem test_subn_borrow : ran ((r0.setV 1 0x80).setV 2 0x7F) 0x8127 (fun t => (t.readV 1, t.readV 15)) =
    some (0xFF, 0x01) := by decide
/-- 8XYE, AA and 55. -/
theorem test_shl : ran ((r0.setV 1 0xAA).setV 2 0x55) 0x812E (fun t => (t.readV 1, t.readV 15)) =
    some (0xAA, 0x00) := by decide
/-- AL28. -/
theorem test_shl_in_place : ran (r0.setV 1 0x81) 0x811E (fun t => (t.readV 1, t.readV 15)) =
    some (0x02, 0x01) := by decide
/-- SK9. -/
theorem test_sne_reg : ran ((r0.setV 1 7).setV 2 8) 0x9120 (fun t => t.pc) = some 0x0204 := by decide
/-- SK10. -/
theorem test_sne_reg_not : ran ((r0.setV 1 7).setV 2 7) 0x9120 (fun t => t.pc) = some 0x0202 := by decide
/-- MM2. -/
theorem test_ld_i : ran (r0.setI 0xFFFF) 0xA000 (fun t => t.i) = some 0x0000 := by decide
/-- CT12. -/
theorem test_jp_v0 : ran (r0.setV 0 0xFF) 0xBFFF (fun t => t.pc) = some 0x10FE := by decide
/-- CT13. -/
theorem test_jp_v0_not_vx : ran (r0.setV 3 0x55) 0xB300 (fun t => t.pc) = some 0x0300 := by decide
/-- MD4. -/
theorem test_rnd : ran (answering (r0.setV 5 0x99) [] [0xFF] []) 0xC523 (fun t => t.readV 5) = some 0x23 := by decide
/-- MD6. -/
theorem test_rnd_asks_anyway : ran (answering r0 [] [0x5C] []) 0xC100 (fun t => (t.readV 1, t.env.trace)) =
    some (0x00, [.request .getRandomByte]) := by decide
/-- MD14. -/
theorem test_drw_vf_as_coordinate :
    ran (answering ((r0.setV 15 0x09).setV 2 0x05) [] [] [true]) 0xDF21 (fun t => (t.readV 15, t.env.trace)) =
      some (0x01, [.request (.drawSprite 0x09 0x05 [0xF0])]) := by decide
/-- MD13. -/
theorem test_drw_wraps :
    ran (answering (((r0.setI 0xFFE).writeMem 0xFFE 0xAA).writeMem 0xFFF 0xBB) [] [] [false]) 0xD123
      (fun t => t.env.trace) = some [.request (.drawSprite 0x00 0x00 [0xAA, 0xBB, 0xF0])] := by decide
/-- MD16. -/
theorem test_skp : ran (answering (r0.setV 2 0x35) [0x05] [] []) 0xE29E (fun t => t.pc) = some 0x0204 := by decide
/-- MD18. -/
theorem test_skp_no_key : ran (answering r0 [0x10] [] []) 0xE29E (fun t => t.pc) = some 0x0202 := by decide
/-- MD19. -/
theorem test_sknp_not : ran (answering (r0.setV 2 0x05) [0x05] [] []) 0xE2A1 (fun t => t.pc) = some 0x0202 := by decide
/-- MD21. -/
theorem test_sknp_no_key : ran (answering r0 [0x10] [] []) 0xE2A1 (fun t => t.pc) = some 0x0204 := by decide
/-- TM1. -/
theorem test_ld_vx_dt : ran (r0.setDt 0x1E) 0xF307 (fun t => (t.readV 3, t.dt)) = some (0x1E, 0x1E) := by decide
/-- MD23. -/
theorem test_ld_vx_k_waits : ran (answering (r0.setV 2 0xAA) [0x10] [] []) 0xF20A
    (fun t => (t.pc, t.readV 2, t.env.trace)) = some (0x0200, 0xAA, [.request .getCurrentKey]) := by decide
/-- MD24. -/
theorem test_ld_vx_k : ran (answering (r0.setV 2 0xAA) [0x00] [] []) 0xF20A (fun t => (t.pc, t.readV 2)) =
    some (0x0202, 0x00) := by decide
/-- TM2. -/
theorem test_ld_dt_vx : ran (r0.setV 3 0x3C) 0xF315 (fun t => (t.dt, t.st)) = some (0x3C, 0x00) := by decide
/-- TM3. -/
theorem test_ld_st_vx : ran (r0.setV 3 0x05) 0xF318 (fun t => (t.dt, t.st)) = some (0x00, 0x05) := by decide
/-- MM4. -/
theorem test_add_i_no_flag : ran ((r0.setI 0x0FFF).setV 1 0x01) 0xF11E (fun t => (t.i, t.readV 15, t.ea 0)) =
    some (0x1000, 0x00, 0x000) := by decide
/-- MM5. -/
theorem test_add_i_wraps : ran ((r0.setI 0xFFFF).setV 1 0x02) 0xF11E (fun t => t.i) = some 0x0001 := by decide
/-- MM7. -/
theorem test_ld_f : ran (r0.setV 1 0x0A) 0xF129 (fun t => t.i) = some 0x0032 := by decide
/-- MM10. -/
theorem test_ld_f_no_mask : ran (r0.setV 1 0xFF) 0xF129 (fun t => t.i) = some 0x04FB := by decide
/-- MM20. -/
theorem test_ld_b_wraps : ran ((r0.setV 1 0xEA).setI 0x0FFE) 0xF133
    (fun t => (t.readMem 0xFFE, t.readMem 0xFFF, t.readMem 0x000, t.i)) = some (0x02, 0x03, 0x04, 0x0FFE) := by decide
/-- MM19. -/
theorem test_ld_b : ran ((r0.setV 1 0xFF).setI 0x0300) 0xF133
    (fun t => (t.readMem 0x300, t.readMem 0x301, t.readMem 0x302)) = some (0x02, 0x05, 0x05) := by decide
/-- MM22. -/
theorem test_ld_mem_vx : ran ((((r0.setV 0 0x11).setV 1 0x22).setV 2 0x33).setI 0x0400) 0xF255
    (fun t => (t.readMem 0x400, t.readMem 0x401, t.readMem 0x402, t.readMem 0x403, t.i)) =
      some (0x11, 0x22, 0x33, 0x00, 0x0400) := by decide
/-- MM27. -/
theorem test_ld_mem_vx_own_code : ran ((r0.setV 0 0x12).setI 0x0200) 0xF055
    (fun t => (t.readMem 0x200, t.opcodeAtPc, (t.setPc 0x200).fetchedWord)) = some (0x12, 0x0000, 0x1255) := by decide
/-- MM25. -/
theorem test_ld_vx_mem :
    ran (((((r0.writeMem 0x300 2).writeMem 0x301 3).writeMem 0x302 4).setI 0x0300).setV 3 0x77) 0xF265
      (fun t => (t.readV 0, t.readV 1, t.readV 2, t.readV 3, t.i)) = some (2, 3, 4, 0x77, 0x0300) := by decide
/-- MM26, with the font of R36. -/
theorem test_ld_vx_mem_font : ran r0 0xFF65 (fun t => (t.readV 0, t.readV 5, t.readV 15, t.i)) =
    some (0xF0, 0x20, 0xF0, 0x0000) := by decide
/-- FE12, SK8: unmatched words. -/
theorem test_nop : ran r0 0x8129 (fun t => (t.pc, t.v, t.env.trace)) = some (0x0202, r0.v, []) := by decide
/-- SK8. -/
theorem test_nop_5121 : ran ((r0.setV 1 7).setV 2 7) 0x5121 (fun t => t.pc) = some 0x0202 := by decide

/-! ## The cycle and the commands -/

/-- FE3: 0x0E8E is below the ceiling and is fetched normally. -/
theorem test_fetch_last :
    ((r0.writeMem 0xE8E 0x6A).writeMem 0xE8F 0x01 |>.setPc 0x0E8E).fetchedWord = 0x6A01 := by decide
/-- FE6 and FE10. -/
theorem test_fetch_wraps : (r0.setPc 0x0E8F).wrapPc.pc = 0x0200 ∧ (r0.setPc 0x0000).fetchedWord = 0xF090 := by decide
/-- FE11. -/
theorem test_execute_pc_wraps : seen ((r0.setPc 0xFFFE).execute 0x0000) (fun t => t.pc) = some 0x0000 := by decide
/-- TM4 and TM5. -/
theorem test_tick : (((r0.setDt 3).setSt 1).tickTimers.dt, ((r0.setDt 3).setSt 1).tickTimers.st, r0.tickTimers.dt) =
    (0x02, 0x00, 0x00) := by decide
/-- LD2. -/
theorem test_reset_font : (r0.readMem 0x000, r0.readMem 0x005, r0.readMem 0x04F, r0.readMem 0x050) =
    (0xF0, 0x20, 0x80, 0x00) := by decide
/-- LD4 and LD5: a load keeps registers and the old tail. -/
theorem test_load_program : seen ((((r0.setPc 0x300).setV 1 0x55).writeMem 0x202 0xCC).perform
    (.loadProgram true [0x11, 0x22])) (fun t => (t.pc, t.readV 1, t.readMem 0x201, t.readMem 0x202)) =
      some (0x0200, 0x55, 0x22, 0xCC) := by decide
/-- LD8. -/
theorem test_load_program_unreadable : seen ((r0.setPc 0x300).perform (.loadProgram false [0x11]))
    (fun t => (t.pc, t.env.trace)) = some (0x0300, [.loadFail]) := by decide
/-- LD11. -/
theorem test_load_bytes_over_ceiling : seen (r0.perform (.loadBytes 0x0E8E [0x77, 0x88]))
    (fun t => (t.readMem 0xE8E, t.env.trace)) = some (0x00, [.loadFail]) := by decide
/-- LD12 and LD13. -/
theorem test_load_bytes_empty : seen (r0.perform (.loadBytes 0x0E8F [])) (fun t => t.env.trace) = some [.loadOk] ∧
    seen (r0.perform (.loadBytes 0x0E90 [])) (fun t => t.env.trace) = some [.loadFail] := by decide
/-- LD15: a font byte is overwritten, and memory written back to its reset contents is the reset memory again. -/
theorem test_load_bytes_font : (r0.writeMem 0x000 0x00).readMem 0x000 = 0x00 ∧
    ((r0.writeMem 0x000 0x00).writeMem 0x000 0xF0) = r0 := by decide
/-- R203, program P4 steps 7 and 8: the second draw of one sprite erases the first, which is a collision. -/
theorem test_reference_mediator :
    (Surface.draw RefMediator.initial.px 7 5 [0xF0]).1 = false ∧
    (Surface.draw (Surface.draw RefMediator.initial.px 7 5 [0xF0]).2 7 5 [0xF0]) = (true, RefMediator.initial.px) := by
  decide

/-! ## Witnesses: a concrete state and operands that meet an obligation's hypotheses together -/

/-- The reset state with a program of one word at 0x200. -/
def coded (w : Word) : State := (r0.writeMem 0x200 (highByte w)).writeMem 0x201 (lowByte w)

/-- R203, program P4 step 2: the reference mediator answers the request of the step with its next random byte. -/
theorem test_rig_random :
    (match Rig.step { core := coded 0xC10F, mediator := { RefMediator.initial with rnd := [0xA7] } } with
      | .next g => some (g.core.readV 1, g.mediator.rnd)
      | .fault _ => none
      | .refused _ => none) = some (0x07, []) := by decide

/-- R105: with no random byte left the reference mediator never answers, and the step is stuck in its request. -/
theorem test_rig_random_exhausted :
    Rig.step { core := coded 0xC10F, mediator := RefMediator.initial } = .fault (.mediatorSilent .getRandomByte) := rfl

/-- A state whose mediator answers nothing. -/
def muted (s : State) : State := { s with env := { s.env with answersLeft := some 0 } }

/-- A state whose mediator answers one more request. -/
def lastAnswer (s : State) : State := { s with env := { s.env with answersLeft := some 1 } }

/-- DecodingAnEncodingGivesTheInstruction: an ordinary instruction and a no-op. -/
theorem witness_DecodingAnEncoding :
    (Instr.drw 0x1 0xF 0x0).wellFormed = true ∧ (Instr.nop 0xFFFF).wellFormed = true := by decide

/-- StepRunsTheDecodedInstruction: at the entry point, and at the ceiling, where the fetch wraps. -/
theorem witness_StepRunsTheDecodedInstruction :
    ((coded 0xA22A).env.driver = [] ∧
      decode [(coded 0xA22A).readMem 0x200, (coded 0xA22A).readMem 0x201] = .ok (.ldI 0x22A) []) ∧
    (((coded 0xA22A).setPc 0xE8F).env.driver = [] ∧ 0xE8F ≤ ((coded 0xA22A).setPc 0xE8F).pc.toNat) := by decide

/-- StepRunsTheDecodedInstruction, the command `execute`: its word's bytes, with another word at `pc` (FE12). -/
theorem witness_ExecuteRunsItsWord :
    decode [0x81, 0x29] = .ok (.nop 0x8129) [] ∧ (coded 0xA22A).opcodeAtPc = 0xA22A := by decide

/-- EverythingAnswersANextState: a mediator that answers, and on a silent one an instruction and a step that ask nothing. -/
theorem witness_EverythingAnswers :
    r0.env.silent = false ∧ (muted r0).env.silent = true ∧ requestOf (.ldImm 0x1 0x2) (muted r0) = none ∧
    (muted (coded 0x6102)).nextRequest = none ∧ Command.fetch ≠ .step ∧ ∀ w, Command.fetch ≠ .execute w :=
  ⟨rfl, rfl, rfl, by decide, nofun, nofun⟩

/-- ASilentMediatorLeavesTheStepStuck: both asking clauses, and a step that does fault. -/
theorem witness_ASilentMediator :
    (muted r0).env.silent = true ∧ requestOf (.drw 0x1 0x2 0x0) (muted r0) = some (.drawSprite 0 0 []) ∧
    (muted (coded 0xF20A)).nextRequest = some .getCurrentKey ∧
    step (muted (coded 0xF20A)) = .fault (.mediatorSilent .getCurrentKey) :=
  ⟨rfl, by decide, by decide, rfl⟩

/-- A mediator that answers one more request: the first step runs, the second is stuck (R105). -/
theorem witness_LastAnswer : ∃ t, step (lastAnswer (coded 0x00E0)) = .next t ∧ t.env.silent = true := ⟨_, rfl, by decide⟩

/-- StepPerformsThePendingCommand. -/
theorem witness_StepPerformsThePendingCommand :
    (r0.setDriver [.tickTimers, .fetch]).env.driver = .tickTimers :: [.fetch] := by decide

/-- FetchIsBigEndian: the last address below the ceiling. -/
theorem witness_FetchIsBigEndian : (r0.setPc 0xE8E).pc.toNat < 0xE8F := by decide

/-- FetchWrapsAtTheCeilingAndOnlyReads: both sides of the ceiling. -/
theorem witness_FetchWraps : (r0.setPc 0xE8E).wrapPc.pc = 0xE8E ∧ (r0.setPc 0xE8F).wrapPc.pc = 0x200 := by decide

/-- FetchAfterAJumpReadsTheTarget: each clause at its boundary. -/
theorem witness_FetchAfterAJump : (0xE8E : Addr).toNat < 0xE8F ∧ 0xE8F ≤ (0xE8F : Addr).toNat := by decide

/-- StoredCodeIsWhatTheNextFetchReturns: F155 with `I` at the next instruction. -/
theorem witness_StoredCode :
    0 < (0x1 : Reg).toNat ∧ (r0.setI 0x200).pc.toNat < 0xE8F ∧
      (r0.setI 0x200).ea 0 = BitVec.ofNat 12 (r0.setI 0x200).pc.toNat := by decide

/-- NestedCallsReturnToTheirCallers: fifteen calls from an empty stack, the most there is room for. -/
theorem witness_NestedCalls :
    r0.sp.val + (List.replicate 15 (0x300 : Addr)).length ≤ 15 ∧ List.replicate 15 (0x300 : Addr) ≠ [] := by decide

/-- CallAtTheStackLimitLosesItsReturn. -/
theorem witness_CallAtTheStackLimit : losesReturn (.call 0x300) (stacked r0 15 14 0x0ABC) := rfl

/-- ReturnFromNothingJumpsToEntryZero. -/
theorem witness_ReturnFromNothing : returnsFromNothing .ret r0 := rfl

/-- EffectiveAddressesWrapAndAreDistinct: the largest offsets, across the top of memory. -/
theorem witness_EffectiveAddresses :
    (r0.setI 0xFFFF).ea 15 = 0x00E ∧ (r0.setI 0xFFFF).ea 0 = 0xFFF ∧ (15 : Nat) < 16 := by decide

/-- BlockStoreWritesTheRegisters, BlockLoadFillsTheRegisters: `k` at both ends of the block. -/
theorem witness_Block : (0x0 : Reg).toNat ≤ (0xF : Reg).toNat ∧ (0xF : Reg).toNat ≤ (0xF : Reg).toNat := by decide

/-- BlockLoadBringsBackABlockStore: a state with the stored memory, the old `I` and other registers. -/
theorem witness_BlockLoadBringsBack :
    ∃ t u : State, exec (.ldMemVx 0xF) (r0.setI 0x300) = .next t ∧ u.mem = t.mem ∧ u.i = (r0.setI 0x300).i ∧
      u.readV 0 ≠ r0.readV 0 :=
  ⟨_, (((r0.setI 0x300).storeRegs 16).setV 0 0xAA), rfl, rfl, by decide, by decide⟩

/-- ClearAndRandomMakeTheirRequests, DrawSendsTheSpriteAndSetsTheFlag, KeySkipsCompareTheLowNibble,
KeyWaitStoresTheKeyOrGoesBack: a mediator that answers, and answers waiting. -/
theorem witness_AnswersWaiting :
    (answering r0 [0x05] [0xFF] [true]).env.silent = false ∧
    (answering r0 [0x05] [0xFF] [true]).env.keys = 0x05 :: [] ∧
    (answering r0 [0x05] [0xFF] [true]).env.randoms = 0xFF :: [] ∧
    (answering r0 [0x05] [0xFF] [true]).env.collisions = true :: [] := by decide

/-- KeyWaitStoresTheKeyOrGoesBack: each clause, at the sentinel and one below it. -/
theorem witness_KeyWait :
    (answering r0 [0x10] [] []).keyAnswer = 0x10 ∧ (answering r0 [0x0F] [] []).keyAnswer ≠ 0x10 := by decide

/-- KeyWaitPollsUntilAKeyIsReported: program P4's wait, two polls and then key 5. -/
theorem witness_KeyWaitPolls :
    (answering (coded 0xF20A) [0x10, 0x10, 0x05] [] []).env.driver = [] ∧
    (answering (coded 0xF20A) [0x10, 0x10, 0x05] [] []).pc.toNat < 0xE8F ∧
    (answering (coded 0xF20A) [0x10, 0x10, 0x05] [] []).opcodeAtPc = encode (.ldVxK 0x2) ∧
    (answering (coded 0xF20A) [0x10, 0x10, 0x05] [] []).env.keys = List.replicate 2 0x10 ++ 0x05 :: [] ∧
    (0x05 : Byte) ≠ 0x10 ∧ (answering (coded 0xF20A) [0x10, 0x10, 0x05] [] []).env.answersLeft = none := by decide

/-- KeyWaitPollsUntilAKeyIsReported: a mediator that answers just as many requests as the wait takes. -/
theorem witness_KeyWaitPolls_last : ∀ m, (lastAnswer r0).env.answersLeft = some m → 0 < m := by
  intro m h
  have : m = 1 := (Option.some.inj h).symm
  omega

/-- EachInstructionMakesItsOneRequest and the whole-machine rules over `exec`: an instruction's next state. -/
theorem witness_exec_next : ∃ t, exec (.seImm 0x3 0x12) r0 = .next t := ⟨_, rfl⟩

/-- EachInstructionMakesItsOneRequest: each side condition, by an instruction that makes another request or none. -/
theorem witness_OtherRequests :
    requestOf .cls r0 ≠ some .getCurrentKey ∧ requestOf .cls r0 ≠ some .getRandomByte ∧
    ∀ x y bytes, requestOf .cls r0 ≠ some (.drawSprite x y bytes) :=
  ⟨by decide, by decide, fun _ _ _ h => nomatch h⟩

/-- TheTraceIsOnlyAddedTo, EveryStepKeepsTheInvariant: a step from a state of the canonical form. -/
theorem witness_step_next : ∃ t, (coded 0x00E0).Inv ∧ step (coded 0x00E0) = .next t := ⟨_, by decide, rfl⟩

/-- TheKeyContractIsKept: pending answers at both ends of the contract, and FX0A answered on each side of 0x10. -/
theorem witness_KeyContract :
    (answering r0 [0x10, 0x00] [] []).KeysKeepContract ∧ (answering r0 [0x10] [] []).keyAnswer = 0x10 ∧
    (answering r0 [0x0F] [] []).keyAnswer.toNat < 16 ∧
    (∃ t, exec (.ldVxK 0x2) (answering r0 [0x10] [] []) = .next t) ∧
    (∃ t, exec (.ldVxK 0x2) (answering r0 [0x0F] [] []) = .next t) :=
  ⟨by decide, by decide, by decide, ⟨_, rfl⟩, ⟨_, rfl⟩⟩

/-- ReferenceDrawReportsLitPixelsGoingOut: the tallest sprite the statement takes. -/
theorem witness_ReferenceDraw : (List.replicate 32 (0xFF : Byte)).length ≤ 32 := by decide

/-- UnmatchedWordsOnlyAdvancePc. -/
theorem witness_UnmatchedWords : unmatchedWord 0x0000 = true ∧ unmatchedWord 0x8129 = true := by decide

/-- ZeroedMemoryIsWalkedUpToTheCeiling: the last two words below the ceiling, up to 0xE90. -/
theorem witness_ZeroedMemory :
    (r0.setPc 0xE8C).env.driver = [] ∧ (r0.setPc 0xE8C).pc.toNat + 2 * 2 ≤ 0xE90 ∧
    ∀ a : Addr, (r0.setPc 0xE8C).pc.toNat ≤ a.toNat → a.toNat < (r0.setPc 0xE8C).pc.toNat + 2 * 2 →
      (r0.setPc 0xE8C).readMem a = 0x00 :=
  ⟨by decide, by decide, fun a h _ => if_neg (Nat.not_lt.2 (Nat.le_trans (by decide) h))⟩

/-- LoadsFailExactlyWhenTheyMustAndChangeNothing: each failing load at its boundary, and the last that must not fail. -/
theorem witness_LoadsFail :
    (Command.loadBytes 0xE90 []).mustFail ∧ ¬ (Command.loadBytes 0xE8F []).mustFail ∧
    (Command.loadProgram true (List.replicate 3216 0xFF)).mustFail ∧
    ¬ (Command.loadProgram true (List.replicate 3215 0xFF)).mustFail ∧ (Command.loadProgram false []).mustFail := by
  refine ⟨by decide, by decide, .inr ?_, ?_, by decide⟩
  · rw [List.length_replicate]
    decide
  · rw [Command.mustFail, List.length_replicate]
    decide

/-- LoadsFailExactlyWhenTheyMustAndChangeNothing: every command answers, this failing load among them. -/
theorem witness_LoadsFail_next : ∃ t, r0.perform (.loadBytes 0xE90 []) = .next t := ⟨_, rfl⟩

/-- LoadBytesCopiesAndKeepsTheRest: one byte at the last loadable address. -/
theorem witness_LoadBytes : (0xE8E : Word).toNat + [(0x77 : Byte)].length ≤ 0xE8F := by decide

/-- LoadProgramCopiesAndSetsPc: the longest program. -/
theorem witness_LoadProgram : (List.replicate 3215 (0xFF : Byte)).length ≤ 3215 :=
  List.length_replicate.le

/-- OnlyTheTwoStoresWriteMemory: an address outside the bytes FX33 stores. -/
theorem witness_OutsideTheStores :
    ∀ x k, Instr.ldB 0x1 = .ldB x → k < 3 → (0x303 : Addr) ≠ (r0.setI 0x300).ea k := by
  intro _ k _ hk
  have h : ∀ j < 3, (0x303 : Addr) ≠ (r0.setI 0x300).ea j := by decide
  exact h k hk

/-- OnlyCallAndReturnTouchTheStack, InstructionsNeverCountTheTimers, PcAndIndexAreWrittenOnlyAsListed: an
instruction of none of the excluded kinds. -/
theorem witness_OtherInstructions :
    (∀ nnn, Instr.cls ≠ .call nnn) ∧ Instr.cls ≠ .ret ∧ (∀ x, Instr.cls ≠ .ldDtVx x) ∧ (∀ x, Instr.cls ≠ .ldStVx x) ∧
    ¬ mayWritePc .cls ∧ (∀ nnn, Instr.cls ≠ .ldI nnn) ∧ (∀ x, Instr.cls ≠ .addI x) ∧ ∀ x, Instr.cls ≠ .ldF x :=
  ⟨nofun, nofun, nofun, nofun, nofun, nofun, nofun, nofun⟩

/-- CanonicalMemoriesThatReadAlikeAreEqual: a memory that lists a byte, and itself. -/
theorem witness_CanonicalMemories : (coded 0xA22A).Inv ∧ KeepsMemory (coded 0xA22A) (coded 0xA22A) :=
  ⟨by decide, fun _ => rfl⟩

/-- AHaltedProgramStaysAsItIs: 0x1200 at 0x200. -/
theorem witness_Halted : (coded 0x1200).env.driver = [] ∧ (coded 0x1200).Halted := by decide

end Sys2Proof.Tests
end

section
/-! PROOFS. What memory, the registers and the stack read as after the command `reset()` (10_state R40 to R45), and
obligation O1. -/

namespace Sys2Proof.Machine

/-! ## The reset contents of memory (R42) -/

/-- R42, `mem[a] = FONT[a]`. -/
theorem resetByte_of_lt {a : Nat} (h : a < 0x050) : resetByte a = font.getD a 0 := if_pos h

/-- R42, `mem[a] = 0x00` beyond the font. -/
theorem resetByte_of_ge {a : Nat} (h : 0x050 ≤ a) : resetByte a = 0x00 := if_neg (Nat.not_lt.2 h)

/-! ## Reading the state the command leaves -/

@[simp] theorem State.readV_resetCommand (s : State) (r : Reg) : s.resetCommand.readV r = 0x00 :=
  Vector.getElem_replicate r.isLt

@[simp] theorem State.stackAt_resetCommand (s : State) (k : Fin 16) : s.resetCommand.stackAt k = 0x0000 :=
  Vector.getElem_replicate k.isLt

@[simp] theorem State.readMem_resetCommand (s : State) (a : Addr) : s.resetCommand.readMem a = resetByte a.toNat :=
  Memory.read_unlisted a

/-! ## O1 -/

/-- Settles O1: the next state is `s.resetCommand`. Its registers, stack and memory are read by the three rules above,
memory on either side of the end of the font; `pc`, `I`, `sp` and the timers are fields the command sets outright. -/
theorem resetGivesEveryElementItsValue : Obligations.ResetGivesEveryElementItsValue := by
  intro s
  refine ⟨s.resetCommand, rfl, s.readV_resetCommand, rfl, ?font, ?zero, rfl, rfl, s.stackAt_resetCommand, rfl, rfl⟩
  case font =>
    intro a ha
    rw [State.readMem_resetCommand, resetByte_of_lt ha]
  case zero =>
    intro a ha
    rw [State.readMem_resetCommand, resetByte_of_ge ha]

end Sys2Proof.Machine
end

section
/-! PROOFS. The order of the two bytes of an opcode (20_memory R51), and obligation O10. -/

namespace Sys2Proof.Machine

/-- Below the ceiling F1 does not move `pc` (R101), so the opcode is made of the bytes at `pc` and at the next address. -/
theorem State.fetchedWord_of_below {s : State} (h : s.pc.toNat < loadCeil) :
    s.fetchedWord = wordOfBytes (s.readMem (BitVec.ofNat 12 s.pc.toNat))
      (s.readMem (BitVec.ofNat 12 (s.pc.toNat + 1))) := by
  rw [State.fetchedWord, State.wrapPc_of_below h, State.opcodeAtPc, BitVec.ofNat_add, BitVec.ofNat_toNat]
  rfl

/-- Settles O10: the opcode is the two bytes put together, and each half of such a word is the byte it was made of. -/
theorem fetchIsBigEndian : Obligations.FetchIsBigEndian := by
  intro s h
  rw [State.fetchedWord_of_below h]
  exact ⟨highByte_wordOfBytes _ _, lowByte_wordOfBytes _ _⟩

end Sys2Proof.Machine
end

section
/-! PROOFS. The values of the zero-extended operands, what an update of `pc` leaves unchanged, the two jumps
(41_control R123, R125), and obligation O15. -/

namespace Sys2Proof.Machine

/-! ## Zero extension -/

@[simp] theorem toNat_zextAddr (nnn : Addr) : (zextAddr nnn).toNat = nnn.toNat :=
  BitVec.toNat_setWidth_of_le (by decide)

@[simp] theorem toNat_zextByte (b : Byte) : (zextByte b).toNat = b.toNat :=
  BitVec.toNat_setWidth_of_le (by decide)

/-- R125: the sum is at most 0x0FFF + 0x00FF, so the 16-bit addition does not wrap. -/
theorem toNat_zextAddr_add_zextByte (nnn : Addr) (b : Byte) :
    (zextAddr nnn + zextByte b).toNat = nnn.toNat + b.toNat := by
  have hn : nnn.toNat < 4096 := nnn.isLt
  have hb : b.toNat < 256 := b.isLt
  have hsum : (zextAddr nnn).toNat + (zextByte b).toNat < 2 ^ 16 := by
    rw [toNat_zextAddr, toNat_zextByte]
    omega
  rw [BitVec.toNat_add_of_lt hsum, toNat_zextAddr, toNat_zextByte]

/-! ## The frame of an update of `pc` -/

theorem State.setPc_keepsAllButPc (s : State) (w : Word) : KeepsAllButPc s (s.setPc w) :=
  ⟨⟨s.readV_setPc w, s.setPc_i w, ⟨s.setPc_sp w, s.stackAt_setPc w⟩, ⟨s.setPc_dt w, s.setPc_st w⟩, s.readMem_setPc w⟩,
    s.setPc_env w⟩

/-! ## O15 -/

/-- Settles O15: each jump is one update of `pc`, to NNN (R123) or to the sum that does not wrap (R125). -/
theorem jumpsSetPcAlone : Obligations.JumpsSetPcAlone := by
  intro s nnn
  constructor
  · exact ⟨_, exec_jp s nnn, toNat_zextAddr nnn, s.setPc_keepsAllButPc _⟩
  · exact ⟨_, exec_jpV0 s nnn, toNat_zextAddr_add_zextByte nnn _, s.setPc_keepsAllButPc _⟩

end Sys2Proof.Machine
end

section
/-! PROOFS. What a write of one register leaves unchanged, and the arithmetic and logic instructions that write their
destination and no flag (43_alu R151 to R156): obligations O22, O23 and O24. -/

namespace Sys2Proof.Machine

/-! ## The frame of a write of one register -/

theorem State.setV_keepsRegsBut (s : State) (x : Reg) (b : Byte) : KeepsRegsBut (· = x) s (s.setV x b) :=
  fun _ h => s.readV_setV_other b h

theorem State.setV_keepsAllButRegs (s : State) (x : Reg) (b : Byte) : KeepsAllButRegs s (s.setV x b) :=
  ⟨⟨s.setV_i x b, s.setV_pc x b, ⟨s.setV_sp x b, s.stackAt_setV x b⟩, ⟨s.setV_dt x b, s.setV_st x b⟩,
    s.readMem_setV x b⟩, s.setV_env x b⟩

/-! ## O22 -/

/-- Settles O22: each load is one write of `V[X]`, of NN (R151) or of `V[Y]` (R153). -/
theorem loadsWriteTheirDestinationAlone : Obligations.LoadsWriteTheirDestinationAlone := by
  intro s x y nn
  constructor
  · exact ⟨_, exec_ldImm s x nn, s.readV_setV_self x _, s.setV_keepsRegsBut x _, s.setV_keepsAllButRegs x _⟩
  · exact ⟨_, exec_ldReg s x y, s.readV_setV_self x _, s.setV_keepsRegsBut x _, s.setV_keepsAllButRegs x _⟩

/-! ## O23 -/

/-- Settles O23: 7XNN is one write of `V[X]`, of the byte sum, which wraps at 256 (R152); VF is a register like any
other, so it changes only as the destination. -/
theorem addImmediateWrapsAndRecordsNoCarry : Obligations.AddImmediateWrapsAndRecordsNoCarry := by
  intro s x nn
  refine ⟨_, exec_addImm s x nn, ?sum, ?flag, s.setV_keepsRegsBut x _, s.setV_keepsAllButRegs x _⟩
  case sum =>
    rw [State.readV_setV_self]
    exact BitVec.toNat_add _ _
  case flag => exact fun hx => s.readV_setV_other _ hx.symm

/-! ## O24 -/

/-- Settles O24: each instruction is one write of `V[X]`, of a byte whose bits are the or (R154), the and (R155) or the
exclusive or (R156) of the operands' bits. -/
theorem logicWorksBitwiseAndWritesNoFlag : Obligations.LogicWorksBitwiseAndWritesNoFlag := by
  intro s x y
  refine ⟨⟨_, exec_or s x y, s.setV_keepsRegsBut x _, s.setV_keepsAllButRegs x _, fun j => ?or⟩,
    ⟨_, exec_and s x y, s.setV_keepsRegsBut x _, s.setV_keepsAllButRegs x _, fun j => ?and⟩,
    ⟨_, exec_xor s x y, s.setV_keepsRegsBut x _, s.setV_keepsAllButRegs x _, fun j => ?xor⟩⟩
  case or => rw [State.readV_setV_self, BitVec.getLsbD_or]
  case and => rw [State.readV_setV_self, BitVec.getLsbD_and]
  case xor => rw [State.readV_setV_self, BitVec.getLsbD_xor]

end Sys2Proof.Machine
end

section
/-! PROOFS. What an update of the index register leaves unchanged, and the three instructions that set it
(44_index_memory R170 to R172): obligation O28. -/

namespace Sys2Proof.Machine

/-! ## The frame of an update of `I` -/

theorem State.setI_keepsAllButIndex (s : State) (w : Word) : KeepsAllButIndex s (s.setI w) :=
  ⟨s.readV_setI w, s.setI_pc w, ⟨s.setI_sp w, s.stackAt_setI w⟩, ⟨s.setI_dt w, s.setI_st w⟩, s.readMem_setI w,
    s.setI_env w⟩

/-! ## The values of `I` -/

/-- R171: the 16-bit sum wraps at 65536. -/
theorem toNat_add_zextByte (w : Word) (b : Byte) : (w + zextByte b).toNat = (w.toNat + b.toNat) % 65536 := by
  rw [BitVec.toNat_add, toNat_zextByte]

/-- R172: the font begins at 0 and a glyph takes 5 bytes; the product is at most 0x04FB, so it does not wrap. -/
theorem toNat_glyphAddress (b : Byte) : (fontBase + zextByte b * fontGlyphBytes).toNat = b.toNat * 5 := by
  have hb : b.toNat < 256 := b.isLt
  have hprod : (zextByte b).toNat * fontGlyphBytes.toNat < 2 ^ 16 := by
    rw [toNat_zextByte, show fontGlyphBytes.toNat = 5 from rfl]
    omega
  rw [show fontBase = 0#16 from rfl, BitVec.zero_add, BitVec.toNat_mul_of_lt hprod, toNat_zextByte]
  rfl

/-! ## O28 -/

/-- Settles O28: each instruction is one update of `I`, to NNN (R170), to the sum that wraps (R171) or to the address of
the glyph of all 8 bits of `V[X]` (R172). -/
theorem indexInstructionsSetIAlone : Obligations.IndexInstructionsSetIAlone := by
  intro s x nnn
  refine ⟨?ldI, ?addI, ?ldF⟩
  case ldI => exact ⟨_, exec_ldI s nnn, toNat_zextAddr nnn, s.setI_keepsAllButIndex _⟩
  case addI => exact ⟨_, exec_addI s x, toNat_add_zextByte s.i _, s.setI_keepsAllButIndex _⟩
  case ldF => exact ⟨_, exec_ldF s x, toNat_glyphAddress _, s.setI_keepsAllButIndex _⟩

end Sys2Proof.Machine
end

section
/-! PROOFS. What an update of one timer leaves unchanged, and the three timer instructions (46_timer_ops R220 to R222):
obligation O43. -/

namespace Sys2Proof.Machine

/-! ## The frame of an update of a timer -/

/-- Everything but `dt` and `st` is as before. -/
abbrev KeepsAllButTimers (s t : State) : Prop :=
  KeepsRegs s t ∧ t.i = s.i ∧ t.pc = s.pc ∧ KeepsStack s t ∧ KeepsMemory s t ∧ t.env = s.env

theorem State.setDt_keepsAllButTimers (s : State) (b : Byte) : KeepsAllButTimers s (s.setDt b) :=
  ⟨s.readV_setDt b, s.setDt_i b, s.setDt_pc b, ⟨s.setDt_sp b, s.stackAt_setDt b⟩, s.readMem_setDt b, s.setDt_env b⟩

theorem State.setSt_keepsAllButTimers (s : State) (b : Byte) : KeepsAllButTimers s (s.setSt b) :=
  ⟨s.readV_setSt b, s.setSt_i b, s.setSt_pc b, ⟨s.setSt_sp b, s.stackAt_setSt b⟩, s.readMem_setSt b, s.setSt_env b⟩

/-! ## O43 -/

/-- Settles O43: FX07 is one write of `V[X]`, of the `dt` it runs on (R220); FX15 is one update of `dt` (R221) and FX18
one of `st` (R222), each of which leaves the other timer alone. -/
theorem timerInstructionsMoveOneByte : Obligations.TimerInstructionsMoveOneByte := by
  intro s x
  refine ⟨?readDt, ?writeDt, ?writeSt⟩
  case readDt =>
    exact ⟨_, exec_ldVxDt s x, s.readV_setV_self x _, s.setV_keepsRegsBut x _, s.setV_keepsAllButRegs x _⟩
  case writeDt => exact ⟨_, exec_ldDtVx s x, s.setDt_dt _, s.setDt_st _, s.setDt_keepsAllButTimers _⟩
  case writeSt => exact ⟨_, exec_ldStVx s x, s.setSt_st _, s.setSt_dt _, s.setSt_keepsAllButTimers _⟩

end Sys2Proof.Machine
end

section
/-! PROOFS. The command `reset()` run again, and its result against the state before it (70_reset_and_hazards R271):
obligation O2. -/

namespace Sys2Proof.Machine

/-! ## What the command takes from the state before it -/

/-- The command takes nothing of the CORE from the state before it. -/
theorem State.resetCommand_keepsCore_reset (s : State) : KeepsCore State.reset s.resetCommand := rfl

/-- The outside is not the CORE's to reset (R272). -/
@[simp] theorem State.resetCommand_env (s : State) : s.resetCommand.env = s.env := rfl

/-- The outside is all that the command reads, so what it leaves is the same from states that differ in the CORE alone. -/
theorem State.resetCommand_congr {s t : State} (henv : s.env = t.env) : s.resetCommand = t.resetCommand :=
  congrArg (fun env => { State.reset with env := env }) henv

/-- The command leaves the outside it read, so a second one leaves the same state. -/
@[simp] theorem State.resetCommand_resetCommand (s : State) : s.resetCommand.resetCommand = s.resetCommand :=
  State.resetCommand_congr s.resetCommand_env

/-! ## O2 -/

/-- Settles O2: the next state is `s.resetCommand`; a second command finds the same outside there and nothing else
matters to it. -/
theorem resetIsIdempotentFromEveryState : Obligations.ResetIsIdempotentFromEveryState := by
  intro s
  have hperform (u : State) : u.perform .reset = .next u.resetCommand := rfl
  refine ⟨s.resetCommand, hperform s, ?again, s.resetCommand_keepsCore_reset⟩
  case again => rw [hperform, State.resetCommand_resetCommand]

end Sys2Proof.Machine
end

section
/-! PROOFS. Decoding an encoding, encoding a decoding, and the decoder against the opcode map (30_encoding R82 to R87):
obligations O4, O5, O6 and O7. -/

namespace Sys2Proof

/-! ## The fields as numbers (R81) -/

theorem toNat_fieldF (w : Word) : (fieldF w).toNat = w.toNat / 4096 := by
  have hw : w.toNat < 65536 := w.isLt
  rw [fieldF, BitVec.extractLsb'_toNat, Nat.shiftRight_eq_div_pow, Nat.mod_eq_of_lt (by omega)]

theorem toNat_fieldX (w : Word) : (fieldX w).toNat = w.toNat / 256 % 16 := by
  rw [fieldX, BitVec.extractLsb'_toNat, Nat.shiftRight_eq_div_pow]

theorem toNat_fieldY (w : Word) : (fieldY w).toNat = w.toNat / 16 % 16 := by
  rw [fieldY, BitVec.extractLsb'_toNat, Nat.shiftRight_eq_div_pow]

theorem toNat_fieldN (w : Word) : (fieldN w).toNat = w.toNat % 16 := by
  rw [fieldN, BitVec.extractLsb'_toNat, Nat.shiftRight_zero]

theorem toNat_fieldNN (w : Word) : (fieldNN w).toNat = w.toNat % 256 := by
  rw [fieldNN, BitVec.extractLsb'_toNat, Nat.shiftRight_zero]

theorem toNat_fieldNNN (w : Word) : (fieldNNN w).toNat = w.toNat % 4096 := by
  rw [fieldNNN, BitVec.extractLsb'_toNat, Nat.shiftRight_zero]

/-! ## A word is the layout of its fields (R82) -/

theorem formatA_fields {f : Nat} {w : Word} (hf : (fieldF w).toNat = f) : formatA f (fieldNNN w) = w := by
  apply BitVec.eq_of_toNat_eq
  rw [toNat_fieldF] at hf
  rw [formatA, BitVec.toNat_ofNat, toNat_fieldNNN]
  omega

theorem formatXI_fields {f : Nat} {w : Word} (hf : (fieldF w).toNat = f) : formatXI f (fieldX w) (fieldNN w) = w := by
  apply BitVec.eq_of_toNat_eq
  rw [toNat_fieldF] at hf
  rw [formatXI, BitVec.toNat_ofNat, toNat_fieldX, toNat_fieldNN]
  omega

theorem formatXYN_fields {f : Nat} {w : Word} (hf : (fieldF w).toNat = f) :
    formatXYN f (fieldX w) (fieldY w) (fieldN w) = w := by
  apply BitVec.eq_of_toNat_eq
  rw [toNat_fieldF] at hf
  rw [formatXYN, BitVec.toNat_ofNat, toNat_fieldX, toNat_fieldY, toNat_fieldN]
  omega

/-- A word of format XS, whose NN is the sub-opcode. -/
theorem formatXS_fields {f k : Nat} {w : Word} (hf : (fieldF w).toNat = f) (hk : (fieldNN w).toNat = k) :
    formatXI f (fieldX w) (BitVec.ofNat 8 k) = w := by
  rw [← hk, BitVec.ofNat_toNat, BitVec.setWidth_eq, formatXI_fields hf]

/-- A word of format XY, whose N is the sub-opcode. -/
theorem formatXY_fields {f k : Nat} {w : Word} (hf : (fieldF w).toNat = f) (hk : (fieldN w).toNat = k) :
    formatXYN f (fieldX w) (fieldY w) (BitVec.ofNat 4 k) = w := by
  rw [← hk, BitVec.ofNat_toNat, BitVec.setWidth_eq, formatXYN_fields hf]

/-! ## The unmatched space (R87) -/

/-- R87's table in the fields the decoder reads. -/
theorem unmatchedWord_eq (w : Word) : unmatchedWord w =
    match (fieldF w).toNat with
    | 0x0 => w != 0x00E0 && w != 0x00EE
    | 0x5 => (fieldN w).toNat != 0
    | 0x8 => [0x8, 0x9, 0xA, 0xB, 0xC, 0xD, 0xF].contains (fieldN w).toNat
    | 0x9 => (fieldN w).toNat != 0
    | 0xE => (fieldNN w).toNat != 0x9E && (fieldNN w).toNat != 0xA1
    | 0xF => !([0x07, 0x0A, 0x15, 0x18, 0x1E, 0x29, 0x33, 0x55, 0x65].contains (fieldNN w).toNat)
    | _ => false := by
  rw [toNat_fieldF, toNat_fieldN, toNat_fieldNN]
  rfl

/-! ## What each word decodes to -/

/-- A no-op term stands for its word when the word is of the unmatched space. -/
theorem nop_spec {w : Word} (h : unmatchedWord w = true) :
    (Instr.nop w).wellFormed = true ∧ encode (Instr.nop w) = w := ⟨h, rfl⟩

/-- Family 8: each arm is the layout of the sub-opcode it matched, and the last takes the sub-opcodes of no row. -/
theorem decodeFamily8_spec {w : Word} (hf : (fieldF w).toNat = 8) :
    (decodeFamily8 w).wellFormed = true ∧ encode (decodeFamily8 w) = w := by
  unfold decodeFamily8
  split
  case h_10 =>
    apply nop_spec
    rw [unmatchedWord_eq, hf]
    have hn : (fieldN w).toNat < 16 := (fieldN w).isLt
    generalize (fieldN w).toNat = n at *
    interval_cases n <;> simp_all
  all_goals exact ⟨rfl, formatXY_fields hf ‹_›⟩

/-- Family E, likewise. -/
theorem decodeFamilyE_spec {w : Word} (hf : (fieldF w).toNat = 0xE) :
    (decodeFamilyE w).wellFormed = true ∧ encode (decodeFamilyE w) = w := by
  unfold decodeFamilyE
  split
  case h_3 h9E hA1 =>
    apply nop_spec
    rw [unmatchedWord_eq, hf]
    simpa using And.intro h9E hA1
  all_goals exact ⟨rfl, formatXS_fields hf ‹_›⟩

/-- Family F, likewise. -/
theorem decodeFamilyF_spec {w : Word} (hf : (fieldF w).toNat = 0xF) :
    (decodeFamilyF w).wellFormed = true ∧ encode (decodeFamilyF w) = w := by
  unfold decodeFamilyF
  split
  case h_10 h07 h0A h15 h18 h1E h29 h33 h55 h65 =>
    apply nop_spec
    rw [unmatchedWord_eq, hf]
    simpa using ⟨h07, h0A, h15, h18, h1E, h29, h33, h55, h65⟩
  all_goals exact ⟨rfl, formatXS_fields hf ‹_›⟩

/-- Every word decodes to a well-formed instruction that encodes as the word (R82, R84). -/
theorem decodeWord_spec (w : Word) : (decodeWord w).wellFormed = true ∧ encode (decodeWord w) = w := by
  unfold decodeWord
  have hlt : (fieldF w).toNat < 16 := (fieldF w).isLt
  split
  case h_1 hf =>
    split_ifs with hcls hret
    · exact ⟨rfl, hcls.symm⟩
    · exact ⟨rfl, hret.symm⟩
    · apply nop_spec
      rw [unmatchedWord_eq, hf]
      simpa using And.intro hcls hret
  case h_6 hf =>
    split_ifs with hn
    · exact ⟨rfl, formatXY_fields hf (congrArg BitVec.toNat hn)⟩
    · apply nop_spec
      rw [unmatchedWord_eq, hf]
      simpa using (fun h => hn (BitVec.eq_of_toNat_eq h) : ¬ (fieldN w).toNat = 0)
  case h_10 hf =>
    split_ifs with hn
    · exact ⟨rfl, formatXY_fields hf (congrArg BitVec.toNat hn)⟩
    · apply nop_spec
      rw [unmatchedWord_eq, hf]
      simpa using (fun h => hn (BitVec.eq_of_toNat_eq h) : ¬ (fieldN w).toNat = 0)
  case h_9 hf => exact decodeFamily8_spec hf
  case h_14 hf => exact ⟨rfl, formatXYN_fields hf⟩
  case h_15 hf => exact decodeFamilyE_spec hf
  case h_16 =>
    have hf : (fieldF w).toNat = 0xF := by
      simp only [imp_false] at *
      omega
    exact decodeFamilyF_spec hf
  case h_2 hf | h_3 hf | h_11 hf | h_12 hf => exact ⟨rfl, formatA_fields hf⟩
  case h_4 hf | h_5 hf | h_7 hf | h_8 hf | h_13 hf => exact ⟨rfl, formatXI_fields hf⟩

/-- The words of R87's table are no-ops. -/
theorem decodeWord_of_unmatched {w : Word} (h : unmatchedWord w = true) : decodeWord w = .nop w := by
  rw [unmatchedWord_eq] at h
  split at h
  case h_1 hf => simp_all [decodeWord]
  case h_2 hf | h_4 hf =>
    have hn : fieldN w ≠ 0 := fun e => by simp [e] at h
    simpa [decodeWord, hf] using hn
  case h_3 hf =>
    simp only [List.contains_eq_mem, decide_eq_true_eq, List.mem_cons, List.not_mem_nil, or_false] at h
    rcases h with h | h | h | h | h | h | h <;> simp [decodeWord, hf, decodeFamily8, h]
  case h_5 hf => simp_all [decodeWord, decodeFamilyE]
  case h_6 hf => simp_all [decodeWord, decodeFamilyF]
  case h_7 => contradiction

/-- The decoder finds the family and the sub-opcode of the layout, and reads the operands from its fields. -/
theorem decodeWord_encode {i : Instr} (h : i.wellFormed = true) : decodeWord (encode i) = i := by
  cases i
  case nop w => exact decodeWord_of_unmatched h
  case cls | ret => rfl
  all_goals simp [encode, decodeWord, decodeFamily8, decodeFamilyE, decodeFamilyF]

/-- The decoder reads no more than the two bytes of the word. -/
theorem decode_encodeBytes (i : Instr) : decode (encodeBytes i) = .ok (decodeWord (encode i)) [] := by
  rw [encodeBytes, decode, wordOfBytes_highByte_lowByte]

/-! ## The rows of the opcode map (R86) -/

/-- A row that compares the family covers words of the pattern's family only. -/
theorem fieldF_of_covers {m p w : Word} (h : OpcodeRow.covers ⟨m, p⟩ w = true) (hm : fieldF m = 0xF) :
    fieldF w = fieldF p := by
  rw [← show w &&& m = p from beq_iff_eq.1 h, fieldF, fieldF, BitVec.extractLsb'_and, ← fieldF, ← fieldF, hm]
  exact BitVec.and_allOnes.symm

/-- A row that compares N covers words with the pattern's N only. -/
theorem fieldN_of_covers {m p w : Word} (h : OpcodeRow.covers ⟨m, p⟩ w = true) (hm : fieldN m = 0xF) :
    fieldN w = fieldN p := by
  rw [← show w &&& m = p from beq_iff_eq.1 h, fieldN, fieldN, BitVec.extractLsb'_and, ← fieldN, ← fieldN, hm]
  exact BitVec.and_allOnes.symm

/-- A row that compares NN covers words with the pattern's NN only. -/
theorem fieldNN_of_covers {m p w : Word} (h : OpcodeRow.covers ⟨m, p⟩ w = true) (hm : fieldNN m = 0xFF) :
    fieldNN w = fieldNN p := by
  rw [← show w &&& m = p from beq_iff_eq.1 h, fieldNN, fieldNN, BitVec.extractLsb'_and, ← fieldNN, ← fieldNN, hm]
  exact BitVec.and_allOnes.symm

/-- The mask 0xFFFF compares the whole word. -/
theorem eq_of_covers {p w : Word} (h : OpcodeRow.covers ⟨0xFFFF, p⟩ w = true) : w = p := by
  rw [← show w &&& 0xFFFF = p from beq_iff_eq.1 h]
  exact (BitVec.and_allOnes).symm

/-- A row other than the no-op's covers only words that decode to it: the fields it compares are the ones that R84's
procedure looks at. -/
theorem row_decodeWord_of_covers {i : Instr} {w : Word} (hm : i.row.mask ≠ 0) (h : i.row.covers w = true) :
    (decodeWord w).row = i.row := by
  cases i
  case nop => exact absurd rfl hm
  case cls | ret =>
    rw [eq_of_covers h]
    rfl
  case jp | call | seImm | sneImm | ldImm | addImm | ldI | jpV0 | rnd | drw =>
    rw [decodeWord, fieldF_of_covers h (by decide)]
    rfl
  case seReg | sneReg | ldReg | or | and | xor | addReg | sub | shr | subn | shl =>
    rw [decodeWord, decodeFamily8, fieldF_of_covers h (by decide), fieldN_of_covers h (by decide)]
    rfl
  all_goals
    rw [decodeWord, decodeFamilyE, decodeFamilyF, fieldF_of_covers h (by decide), fieldNN_of_covers h (by decide)]
    rfl

/-- Every row of the map is an instruction's, and it compares something. -/
theorem mem_opcodeMap_elim {row : OpcodeRow} (h : row ∈ opcodeMap) : (∃ i : Instr, i.row = row) ∧ row.mask ≠ 0 := by
  have hmask : ∀ r ∈ opcodeMap, r.mask ≠ 0 := by decide
  obtain ⟨i, -, hi⟩ := List.mem_map.1 h
  exact ⟨⟨i, hi⟩, hmask row h⟩

/-- The 34 instructions stand on the rows of the map. -/
theorem row_mem_opcodeMap {i : Instr} (h : ∀ w, i ≠ .nop w) : i.row ∈ opcodeMap := by
  cases i
  case nop w => exact absurd rfl (h w)
  all_goals simp [opcodeMap, Instr.row]

open Laws.RowMatch in
/-- Every instruction's word stands on the instruction's row. -/
theorem row_covers_encode (i : Instr) : i.row.covers (encode i) = true := by
  cases i
  case cls | ret => rfl
  case nop w => exact nop w
  case jp | call | ldI | jpV0 => exact formatA_covers _ _ (by decide) (by decide)
  case seImm | sneImm | ldImm | addImm | rnd => exact formatXI_covers _ _ _ (by decide) (by decide)
  case drw => exact formatXYN_covers _ _ _ _ (by decide) (by decide)
  case seReg | sneReg | ldReg | or | and | xor | addReg | sub | shr | subn | shl =>
    exact formatXY_covers _ _ _ _ (by decide) (by decide) (by decide)
  all_goals exact formatXS_covers _ _ _ (by decide) (by decide) (by decide)

/-- The row of the instruction that a word decodes to covers the word. -/
theorem row_decodeWord_covers (w : Word) : (decodeWord w).row.covers w = true := by
  have h := row_covers_encode (decodeWord w)
  rwa [(decodeWord_spec w).2] at h

/-- A word decodes to an instruction of a row of the map exactly when the row covers it. -/
theorem covers_iff_row_decodeWord {row : OpcodeRow} (hrow : row ∈ opcodeMap) (w : Word) :
    row.covers w = true ↔ (decodeWord w).row = row := by
  obtain ⟨⟨i, rfl⟩, hmask⟩ := mem_opcodeMap_elim hrow
  constructor
  · exact row_decodeWord_of_covers hmask
  · intro h
    rw [← h]
    exact row_decodeWord_covers w

/-- A word decodes to the no-op exactly when no row of the map covers it (R85). -/
theorem decodeWord_eq_nop_iff (w : Word) : decodeWord w = .nop w ↔ ∀ row ∈ opcodeMap, row.covers w = false := by
  constructor
  · intro h row hrow
    rw [← Bool.not_eq_true, covers_iff_row_decodeWord hrow, h]
    exact fun e => (mem_opcodeMap_elim hrow).2 (congrArg OpcodeRow.mask e).symm
  · intro h
    by_cases hnop : ∃ u, decodeWord w = .nop u
    · obtain ⟨u, hu⟩ := hnop
      have hw := (decodeWord_spec w).2
      rw [hu] at hw
      rw [hu, ← hw, encode]
    · have hmem := row_mem_opcodeMap fun u hu => hnop ⟨u, hu⟩
      exact absurd (row_decodeWord_covers w) (Bool.eq_false_iff.1 (h _ hmem))

/-! ## O4 to O7 -/

/-- Settles O4, by running R84's procedure on the eight words. -/
theorem writtenOutWordsDecode : Obligations.WrittenOutWordsDecode :=
  ⟨rfl, rfl, rfl, rfl, rfl, rfl, rfl, rfl⟩

/-- Settles O5: the two bytes make the word again, and the decoder reads the fields that the layout was made from. -/
theorem decodingAnEncodingGivesTheInstruction : Obligations.DecodingAnEncodingGivesTheInstruction := by
  intro i h
  exact ⟨decodeWord_encode h, by rw [decode_encodeBytes, decodeWord_encode h]⟩

/-- Settles O6: each branch of R84's procedure ends in a layout of the fields it read, or in the word itself. -/
theorem encodingADecodingGivesTheWord : Obligations.EncodingADecodingGivesTheWord := decodeWord_spec

/-- Settles O7: a row covers the words of its fixed fields, and these fields are the ones the procedure looks at. -/
theorem decoderAgreesWithTheOpcodeMap : Obligations.DecoderAgreesWithTheOpcodeMap := fun w =>
  ⟨fun _ hrow => covers_iff_row_decodeWord hrow w, decodeWord_eq_nop_iff w⟩

end Sys2Proof
end

section
/-! PROOFS. What E3 of an instruction can do, said once: the request it makes, and the one kind of write that follows it.
Every rule over all instructions is derived from these. -/

namespace Sys2Proof.Machine

/-! ## The state after the request, if there is one -/

/-- The state after the answered request an instruction makes, or the state itself if it makes none. -/
def State.requested (s : State) (o : Option Request) : State := o.elim s s.request

section Requested
variable (s : State) (o : Option Request)

@[simp] theorem State.requested_none : s.requested none = s := rfl
@[simp] theorem State.requested_some (r : Request) : s.requested (some r) = s.request r := rfl
@[simp] theorem State.requested_i : (s.requested o).i = s.i := by cases o <;> rfl
@[simp] theorem State.requested_pc : (s.requested o).pc = s.pc := by cases o <;> rfl
@[simp] theorem State.requested_sp : (s.requested o).sp = s.sp := by cases o <;> rfl
@[simp] theorem State.requested_dt : (s.requested o).dt = s.dt := by cases o <;> rfl
@[simp] theorem State.requested_st : (s.requested o).st = s.st := by cases o <;> rfl
@[simp] theorem State.requested_mem : (s.requested o).mem = s.mem := by cases o <;> rfl
@[simp] theorem State.readV_requested (r : Reg) : (s.requested o).readV r = s.readV r := by cases o <;> rfl
@[simp] theorem State.readMem_requested (a : Addr) : (s.requested o).readMem a = s.readMem a := by cases o <;> rfl
@[simp] theorem State.stackAt_requested (k : Fin 16) : (s.requested o).stackAt k = s.stackAt k := by cases o <;> rfl
@[simp] theorem State.ea_requested (k : Nat) : (s.requested o).ea k = s.ea k := by cases o <;> rfl
@[simp] theorem State.requested_driver : (s.requested o).env.driver = s.env.driver := by
  cases o with
  | none => rfl
  | some r => exact Env.afterRequest_driver _ r

/-- A request is one event of the trace. -/
theorem State.requested_trace : (s.requested o).env.trace = s.env.trace ++ (o.map Event.request).toList := by
  cases o with
  | none => exact (List.append_nil _).symm
  | some r => exact Env.afterRequest_trace _ r

/-- Only a key request uses up a key answer. -/
theorem State.requested_keys (h : o ≠ some .getCurrentKey) : (s.requested o).env.keys = s.env.keys := by
  rcases o with _ | (_ | _ | _ | _)
  case some.getCurrentKey => exact absurd rfl h
  all_goals rfl

/-- Only a random request uses up a random answer. -/
theorem State.requested_randoms (h : o ≠ some .getRandomByte) : (s.requested o).env.randoms = s.env.randoms := by
  rcases o with _ | (_ | _ | _ | _)
  case some.getRandomByte => exact absurd rfl h
  all_goals rfl

/-- Only a draw request uses up a collision answer. -/
theorem State.requested_collisions (h : ∀ x y bytes, o ≠ some (.drawSprite x y bytes)) :
    (s.requested o).env.collisions = s.env.collisions := by
  rcases o with _ | (_ | ⟨x, y, bytes⟩ | _ | _)
  case some.drawSprite => exact absurd rfl (h x y bytes)
  all_goals rfl

/-- What is pending of the key answers was pending before. -/
theorem State.mem_keys_of_requested {b : Byte} (h : b ∈ (s.requested o).env.keys) : b ∈ s.env.keys := by
  rcases o with _ | (_ | _ | _ | _)
  case some.getCurrentKey => exact List.mem_of_mem_tail h
  all_goals exact h

end Requested

/-! ## The writes of E3 -/

/-- The instructions that write `I` (R31). -/
abbrev mayWriteIndex (i : Instr) : Prop := (∃ nnn, i = .ldI nnn) ∨ (∃ x, i = .addI x) ∨ ∃ x, i = .ldF x

/-- `i.Writes u t`: `t` is `u` after a write of a kind that `i` may make. -/
inductive Instr.Writes (i : Instr) (u : State) : State → Prop
  | nothing : Instr.Writes i u u
  | reg {x : Reg} {b : Byte} (h : mayWriteReg i x) : Instr.Writes i u (u.setV x b)
  | result {x : Reg} {b : Byte} {f : Bool} (hx : mayWriteReg i x) (hf : mayWriteReg i vf) :
      Instr.Writes i u (u.setResult x b f)
  | regs {n : Nat} (hn : n ≤ 16) (h : ∀ r : Reg, r.toNat < n → mayWriteReg i r) : Instr.Writes i u (u.loadRegs n)
  | pc {w : Word} (h : mayWritePc i) : Instr.Writes i u (u.setPc w)
  | index {w : Word} (h : mayWriteIndex i) : Instr.Writes i u (u.setI w)
  | delay {x : Reg} {b : Byte} (h : i = .ldDtVx x) : Instr.Writes i u (u.setDt b)
  | sound {x : Reg} {b : Byte} (h : i = .ldStVx x) : Instr.Writes i u (u.setSt b)
  | push {nnn : Addr} {w a : Word} (h : i = .call nnn) : Instr.Writes i u ((u.pushCall w).setPc a)
  | pop {a : Word} (h : i = .ret) : Instr.Writes i u (u.popCall.setPc a)
  | digits {x : Reg} {b c d : Byte} (h : i = .ldB x) :
      Instr.Writes i u (((u.writeMem (u.ea 0) b).writeMem (u.ea 1) c).writeMem (u.ea 2) d)
  | block {x : Reg} (h : i = .ldMemVx x) : Instr.Writes i u (u.storeRegs (x.toNat + 1))

/-- A conditional skip is a write of `pc`. -/
theorem Instr.writes_skipIf {i : Instr} (h : mayWritePc i) (u : State) (c : Bool) : Instr.Writes i u (u.skipIf c) := by
  rw [State.skipIf_eq]
  exact .pc h

/-- A waiting FX0A writes `pc`, and one with a key writes its register. -/
theorem Instr.writes_keyWait (x : Reg) (u : State) (k : Byte) :
    Instr.Writes (.ldVxK x) u (if k = keyNone then u.stay else u.setV x k) := by
  split
  · exact .pc trivial
  · exact .reg rfl

/-- E3 of every instruction: either it makes no request and ends in its write, or it makes the request of R202 and ends,
once that is answered, in its write on the state after it (R104, R105). -/
theorem exec_outcome (i : Instr) (s : State) :
    (requestOf i s = none ∧ ∃ t, exec i s = .next t ∧ Instr.Writes i s t) ∨
    ∃ r finish, requestOf i s = some r ∧ exec i s = s.ask r finish ∧ ∀ u, Instr.Writes i u (finish u) := by
  cases i
  case cls => exact .inr ⟨_, _, rfl, execCls_eq_ask s, fun _ => .nothing⟩
  case rnd => exact .inr ⟨_, _, rfl, execRnd_eq_ask s _ _, fun _ => .reg rfl⟩
  case drw => exact .inr ⟨_, _, rfl, execDrw_eq_ask s _ _ _, fun _ => .reg rfl⟩
  case skp => exact .inr ⟨_, _, rfl, execSkp_eq_ask s _, fun u => Instr.writes_skipIf trivial u _⟩
  case sknp => exact .inr ⟨_, _, rfl, execSknp_eq_ask s _, fun u => Instr.writes_skipIf trivial u _⟩
  case ldVxK x => exact .inr ⟨_, _, rfl, execLdVxK_eq_ask s _, fun u => Instr.writes_keyWait x u _⟩
  case seImm => exact .inl ⟨rfl, _, exec_seImm s _ _, Instr.writes_skipIf trivial s _⟩
  case sneImm => exact .inl ⟨rfl, _, exec_sneImm s _ _, Instr.writes_skipIf trivial s _⟩
  case seReg => exact .inl ⟨rfl, _, exec_seReg s _ _, Instr.writes_skipIf trivial s _⟩
  case sneReg => exact .inl ⟨rfl, _, exec_sneReg s _ _, Instr.writes_skipIf trivial s _⟩
  case jp => exact .inl ⟨rfl, _, exec_jp s _, .pc trivial⟩
  case jpV0 => exact .inl ⟨rfl, _, exec_jpV0 s _, .pc trivial⟩
  case call => exact .inl ⟨rfl, _, exec_call s _, .push rfl⟩
  case ret => exact .inl ⟨rfl, _, exec_ret s, .pop rfl⟩
  case ldImm => exact .inl ⟨rfl, _, exec_ldImm s _ _, .reg rfl⟩
  case addImm => exact .inl ⟨rfl, _, exec_addImm s _ _, .reg rfl⟩
  case ldReg => exact .inl ⟨rfl, _, exec_ldReg s _ _, .reg rfl⟩
  case or => exact .inl ⟨rfl, _, exec_or s _ _, .reg rfl⟩
  case and => exact .inl ⟨rfl, _, exec_and s _ _, .reg rfl⟩
  case xor => exact .inl ⟨rfl, _, exec_xor s _ _, .reg rfl⟩
  case ldVxDt => exact .inl ⟨rfl, _, exec_ldVxDt s _, .reg rfl⟩
  case addReg => exact .inl ⟨rfl, _, exec_addReg s _ _, .result (.inl rfl) (.inr rfl)⟩
  case sub => exact .inl ⟨rfl, _, exec_sub s _ _, .result (.inl rfl) (.inr rfl)⟩
  case subn => exact .inl ⟨rfl, _, exec_subn s _ _, .result (.inl rfl) (.inr rfl)⟩
  case shr => exact .inl ⟨rfl, _, exec_shr s _ _, .result (.inl rfl) (.inr rfl)⟩
  case shl => exact .inl ⟨rfl, _, exec_shl s _ _, .result (.inl rfl) (.inr rfl)⟩
  case ldI nnn => exact .inl ⟨rfl, _, exec_ldI s nnn, .index (.inl ⟨nnn, rfl⟩)⟩
  case addI x => exact .inl ⟨rfl, _, exec_addI s x, .index (.inr (.inl ⟨x, rfl⟩))⟩
  case ldF x => exact .inl ⟨rfl, _, exec_ldF s x, .index (.inr (.inr ⟨x, rfl⟩))⟩
  case ldDtVx => exact .inl ⟨rfl, _, exec_ldDtVx s _, .delay rfl⟩
  case ldStVx => exact .inl ⟨rfl, _, exec_ldStVx s _, .sound rfl⟩
  case ldB => exact .inl ⟨rfl, _, exec_ldB s _, .digits rfl⟩
  case ldMemVx => exact .inl ⟨rfl, _, exec_ldMemVx s _, .block rfl⟩
  case ldVxMem x => exact .inl ⟨rfl, _, exec_ldVxMem s x, .regs x.isLt fun _ => Nat.lt_succ_iff.1⟩
  case nop => exact .inl ⟨rfl, _, exec_nop s _, .nothing⟩

/-- An instruction that answers a next state has had its request answered, and has made its write since. -/
theorem exec_next {i : Instr} {s t : State} (h : exec i s = .next t) :
    Instr.Writes i (s.requested (requestOf i s)) t := by
  rcases exec_outcome i s with ⟨hr, t', he, hw⟩ | ⟨r, finish, hr, he, hw⟩
  · cases he.symm.trans h
    rwa [hr]
  · obtain ⟨-, rfl⟩ := (State.ask_eq_next_iff s t r finish).1 (he.symm.trans h)
    rw [hr]
    exact hw _

/-! ## What a write leaves unchanged -/

section Frames
variable {i : Instr} {u t : State}

theorem Instr.Writes.env_eq (h : Instr.Writes i u t) : t.env = u.env := by
  cases h with
  | regs => rw [State.loadRegs_eq]
  | block => rw [State.storeRegs_eq]
  | _ => rfl

theorem Instr.Writes.dt_eq (h : Instr.Writes i u t) (hi : ∀ x, i ≠ .ldDtVx x) : t.dt = u.dt := by
  cases h with
  | regs => rw [State.loadRegs_eq]
  | block => rw [State.storeRegs_eq]
  | delay h => exact absurd h (hi _)
  | _ => rfl

theorem Instr.Writes.st_eq (h : Instr.Writes i u t) (hi : ∀ x, i ≠ .ldStVx x) : t.st = u.st := by
  cases h with
  | regs => rw [State.loadRegs_eq]
  | block => rw [State.storeRegs_eq]
  | sound h => exact absurd h (hi _)
  | _ => rfl

theorem Instr.Writes.i_eq (h : Instr.Writes i u t) (hi : ¬ mayWriteIndex i) : t.i = u.i := by
  cases h with
  | regs => rw [State.loadRegs_eq]
  | block => rw [State.storeRegs_eq]
  | index h => exact absurd h hi
  | _ => rfl

theorem Instr.Writes.pc_eq (h : Instr.Writes i u t) (hi : ¬ mayWritePc i) : t.pc = u.pc := by
  cases h with
  | regs => rw [State.loadRegs_eq]
  | block => rw [State.storeRegs_eq]
  | pc h => exact absurd h hi
  | push h => exact absurd (h ▸ trivial) hi
  | pop h => exact absurd (h ▸ trivial) hi
  | _ => rfl

theorem Instr.Writes.sp_eq (h : Instr.Writes i u t) (hcall : ∀ nnn, i ≠ .call nnn) (hret : i ≠ .ret) :
    t.sp = u.sp := by
  cases h with
  | regs => rw [State.loadRegs_eq]
  | block => rw [State.storeRegs_eq]
  | push h => exact absurd h (hcall _)
  | pop h => exact absurd h hret
  | _ => rfl

theorem Instr.Writes.stackAt_eq (h : Instr.Writes i u t) (hcall : ∀ nnn, i ≠ .call nnn) (k : Fin 16) :
    t.stackAt k = u.stackAt k := by
  cases h with
  | regs =>
    rw [State.loadRegs_eq]
    rfl
  | block =>
    rw [State.storeRegs_eq]
    rfl
  | push h => exact absurd h (hcall _)
  | _ => rfl

theorem Instr.Writes.readV_eq (h : Instr.Writes i u t) {r : Reg} (hr : ¬ mayWriteReg i r) : t.readV r = u.readV r := by
  have hne {x : Reg} (hx : mayWriteReg i x) : r ≠ x := fun e => hr (by rwa [e])
  cases h with
  | reg h => exact State.readV_setV_other _ _ (hne h)
  | result hx hf => rw [State.readV_setResult, if_neg (hne hf), if_neg (hne hx)]
  | regs hn h => rw [State.readV_loadRegs _ hn, if_neg fun e => hr (h r e)]
  | block =>
    rw [State.storeRegs_eq]
    rfl
  | _ => rfl

theorem Instr.Writes.readMem_eq (h : Instr.Writes i u t) {a : Addr} (hdigits : ∀ x k, i = .ldB x → k < 3 → a ≠ u.ea k)
    (hblock : ∀ x k, i = .ldMemVx x → k ≤ x.toNat → a ≠ u.ea k) : t.readMem a = u.readMem a := by
  cases h with
  | regs =>
    rw [State.loadRegs_eq]
    rfl
  | block h => exact State.readMem_storeRegs_other _ _ fun k hk => hblock _ k h (Nat.lt_succ_iff.1 hk)
  | digits h =>
    rw [State.readMem_writeMem_other _ _ (hdigits _ 2 h (by decide)),
      State.readMem_writeMem_other _ _ (hdigits _ 1 h (by decide)),
      State.readMem_writeMem_other _ _ (hdigits _ 0 h (by decide))]
  | _ => rfl

theorem Instr.Writes.inv (h : Instr.Writes i u t) (hu : u.Inv) : t.Inv := by
  cases h with
  | regs => rwa [State.Inv, State.loadRegs_eq]
  | block => exact State.wf_storeRegs _ hu
  | digits => exact State.wf_writeMem _ _ (State.wf_writeMem _ _ (State.wf_writeMem _ _ hu))
  | _ => exact hu

end Frames

end Sys2Proof.Machine
end

section
/-! PROOFS. The rules over every instruction, each read off the one kind of write that E3 makes: obligations O39, O50,
O51, O52, O53 and O54. -/

namespace Sys2Proof.Machine

/-- Settles O39: E3 changes nothing outside but by its request, and a request is one event that uses up an answer of its
own kind. -/
theorem eachInstructionMakesItsOneRequest : Obligations.EachInstructionMakesItsOneRequest := by
  intro i s t h
  rw [(exec_next h).env_eq]
  exact ⟨s.requested_trace _, s.requested_driver _, s.requested_keys _, s.requested_randoms _,
    s.requested_collisions _⟩

/-- Settles O50: a request leaves memory, and only FX33 and FX55 make a write of it. -/
theorem onlyTheTwoStoresWriteMemory : Obligations.OnlyTheTwoStoresWriteMemory := by
  intro i s t h a hdigits hblock
  have hmem := (exec_next h).readMem_eq (a := a) (by simpa using hdigits) (by simpa using hblock)
  rwa [State.readMem_requested] at hmem

/-- Settles O51: only 2NNN and 00EE write `sp`, and only 2NNN an entry. -/
theorem onlyCallAndReturnTouchTheStack : Obligations.OnlyCallAndReturnTouchTheStack := by
  intro i s t h hcall
  refine ⟨fun k => ?entry, fun hret => ?pointer⟩
  case entry => rw [(exec_next h).stackAt_eq hcall, State.stackAt_requested]
  case pointer => rw [(exec_next h).sp_eq hcall hret, State.requested_sp]

/-- Settles O52: only FX15 writes `dt`, and only FX18 writes `st`. -/
theorem instructionsNeverCountTheTimers : Obligations.InstructionsNeverCountTheTimers := by
  intro i s t h
  refine ⟨fun hi => ?delay, fun hi => ?sound⟩
  case delay => rw [(exec_next h).dt_eq hi, State.requested_dt]
  case sound => rw [(exec_next h).st_eq hi, State.requested_st]

/-- Settles O53: every write of a register is of one that the lists give the instruction. -/
theorem registersAreWrittenOnlyAsListed : Obligations.RegistersAreWrittenOnlyAsListed := by
  intro i s t h r hr
  rw [(exec_next h).readV_eq hr, State.readV_requested]

/-- Settles O54: every write of `pc` is of a listed writer, and only ANNN, FX1E and FX29 write `I`. -/
theorem pcAndIndexAreWrittenOnlyAsListed : Obligations.PcAndIndexAreWrittenOnlyAsListed := by
  intro i s t h
  refine ⟨fun hi => ?pc, fun hldI haddI hldF => ?index⟩
  case pc => rw [(exec_next h).pc_eq hi, State.requested_pc]
  case index =>
    have hi : ¬ mayWriteIndex i := by simp [mayWriteIndex, hldI, haddI, hldF]
    rw [(exec_next h).i_eq hi, State.requested_i]

end Sys2Proof.Machine
end

section
/-! PROOFS. What one command and one step can do, and the rules over every step: obligations O3, O9, O14, O40, O41, O47,
O55 and O59. -/

namespace Sys2Proof.Machine

/-! ## One command, one step -/

/-- All the next states of one command: an `execute` after some E1, a `fetch`, a tick, a reset, or a load. -/
inductive State.Performs (s : State) : Command → State → Prop
  | stepped {i : Instr} {p : Word} {t : State} (h : exec i (s.setPc p) = .next t) : State.Performs s .step t
  | executed {w : Word} {i : Instr} {p : Word} {t : State} (h : exec i (s.setPc p) = .next t) :
      State.Performs s (.execute w) t
  | fetched {p w : Word} : State.Performs s .fetch ((s.setPc p).emit (.fetched w))
  | ticked : State.Performs s .tickTimers s.tickTimers
  | reset : State.Performs s .reset s.resetCommand
  | loadFailed {c : Command} (h : c.mustFail) : State.Performs s c (s.emit .loadFail)
  | bytesLoaded {base : Word} {bytes : List Byte} (h : ¬ (Command.loadBytes base bytes).mustFail) :
      State.Performs s (.loadBytes base bytes) ((s.copyBytes base.toNat bytes).emit .loadOk)
  | programLoaded {readable : Bool} {bytes : List Byte} (h : ¬ (Command.loadProgram readable bytes).mustFail) :
      State.Performs s (.loadProgram readable bytes) (((s.copyBytes 0x200 bytes).setPc loadBase).emit .loadOk)

theorem State.performs_of_perform {s t : State} {c : Command} (h : s.perform c = .next t) : s.Performs c t := by
  cases c with
  | step =>
    rw [State.perform_step, State.fetchExecute_eq, State.wrapPc_eq] at h
    exact .stepped h
  | execute w => exact .executed h
  | fetch =>
    rw [State.perform_fetch, State.wrapPc_eq] at h
    cases h
    exact .fetched
  | tickTimers =>
    cases h
    exact .ticked
  | reset =>
    cases h
    exact .reset
  | loadBytes base bytes =>
    cases h
    rcases s.loadBytes_cases base bytes with ⟨hfail, heq⟩ | ⟨hok, heq⟩
    · rw [heq]
      exact .loadFailed hfail
    · rw [heq]
      exact .bytesLoaded (Nat.not_lt.2 hok)
  | loadProgram readable bytes =>
    cases h
    rcases s.loadProgram_cases readable bytes with ⟨hfail, heq⟩ | ⟨hfail, heq⟩ | ⟨hr, hlen, heq⟩
    · rw [heq]
      exact .loadFailed (.inl hfail)
    · rw [heq]
      exact .loadFailed (.inr hfail)
    · rw [heq]
      exact .programLoaded (by simp [Command.mustFail, hr, hlen])

/-- Setting the pending commands to what they are changes nothing. -/
theorem State.setDriver_self (s : State) : s.setDriver s.env.driver = s := rfl

/-- A step is one command: the pending one, or with none pending the command `step` (R106). -/
theorem step_eq_perform (s : State) :
    step s = (s.setDriver s.env.driver.tail).perform (s.env.driver.headD .step) := by
  rcases hd : s.env.driver with _ | ⟨c, cs⟩
  · rw [step_of_idle hd, List.tail_nil, ← hd, State.setDriver_self, hd]
    rfl
  · exact step_of_pending hd

/-- What a step that answers a next state has performed. -/
theorem performs_of_step {s t : State} (h : step s = .next t) :
    (s.setDriver s.env.driver.tail).Performs (s.env.driver.headD .step) t :=
  State.performs_of_perform (step_eq_perform s ▸ h)

/-- Settles O9: the model's definition of a step. -/
theorem stepPerformsThePendingCommand : Obligations.StepPerformsThePendingCommand :=
  fun _ _ _ => step_of_pending

/-! ## Rules over every step -/

/-- An instruction keeps the canonical form of memory. -/
theorem inv_of_exec {i : Instr} {s t : State} (h : exec i s = .next t) (hs : s.Inv) : t.Inv :=
  (exec_next h).inv (by rwa [State.Inv, State.requested_mem])

/-- A command keeps the canonical form of memory. -/
theorem State.Performs.inv {s t : State} {c : Command} (h : s.Performs c t) (hs : s.Inv) : t.Inv := by
  cases h with
  | stepped h | executed h => exact inv_of_exec h hs
  | reset => exact Memory.wf_reset
  | bytesLoaded | programLoaded => exact State.wf_copyBytes _ _ hs
  | _ => exact hs

/-- Settles O55: a step is one command, and every write of memory in a command is `Memory.write`, which keeps the
form. -/
theorem everyStepKeepsTheInvariant : Obligations.EveryStepKeepsTheInvariant :=
  fun _ _ hs h => (performs_of_step h).inv hs

/-- Settles O3: memory at reset lists nothing. -/
theorem resetStateHasTheInvariant : Obligations.ResetStateHasTheInvariant := Memory.wf_reset

/-- An instruction adds its request to the trace. -/
theorem trace_of_exec {i : Instr} {s t : State} (h : exec i s = .next t) :
    t.env.trace = s.env.trace ++ ((requestOf i s).map Event.request).toList := by
  rw [(exec_next h).env_eq, State.requested_trace]

/-- The copy of a load command leaves the outside. -/
@[simp] theorem State.copyBytes_env (s : State) (base : Nat) (bs : List Byte) : (s.copyBytes base bs).env = s.env := by
  rw [State.copyBytes_eq]

/-- What a command adds to the trace: a request, an opcode fetched, the result of a load, or nothing. -/
theorem State.Performs.trace {s t : State} {c : Command} (h : s.Performs c t) :
    (∃ o : Option Event, t.env.trace = s.env.trace ++ o.toList ∧ (o = some .loadFail ↔ c.mustFail)) := by
  cases h with
  | stepped h | executed h =>
    have htrace := trace_of_exec h
    rw [State.setPc_env] at htrace
    exact ⟨_, htrace, by simp⟩
  | fetched => exact ⟨some (.fetched _), rfl, by simp⟩
  | ticked | reset => exact ⟨none, (List.append_nil _).symm, by simp⟩
  | loadFailed h => exact ⟨some .loadFail, rfl, by simp [h]⟩
  | bytesLoaded h | programLoaded h => exact ⟨some .loadOk, by simp, by simp [h]⟩

/-- Settles O40: a step is one command, and a command adds at most one event. -/
theorem theTraceIsOnlyAddedTo : Obligations.TheTraceIsOnlyAddedTo := by
  intro s t h
  obtain ⟨o, ho, -⟩ := (performs_of_step h).trace
  exact ⟨o.toList, Option.length_toList_le, ho⟩

/-- A command that must fail is a load, and leaves the CORE as it was. -/
theorem State.Performs.keepsCore_of_mustFail {s t : State} {c : Command} (h : s.Performs c t) (hc : c.mustFail) :
    KeepsCore s t := by
  cases h with
  | loadFailed => rfl
  | bytesLoaded h | programLoaded h => exact absurd hc h
  | _ => exact hc.elim

/-- Settles O47: the event a command adds is a load failure exactly when the command must fail. -/
theorem loadsFailExactlyWhenTheyMustAndChangeNothing : Obligations.LoadsFailExactlyWhenTheyMustAndChangeNothing := by
  intro c s t h
  have hp := State.performs_of_perform h
  refine ⟨?trace, hp.keepsCore_of_mustFail⟩
  case trace =>
    obtain ⟨o, ho, hfail⟩ := hp.trace
    rw [ho, ← hfail, List.append_cancel_left_eq]
    cases o <;> simp

/-- No instruction adds a pending key answer. -/
theorem mem_keys_of_exec {i : Instr} {s t : State} (h : exec i s = .next t) {b : Byte} (hb : b ∈ t.env.keys) :
    b ∈ s.env.keys := by
  rw [(exec_next h).env_eq] at hb
  exact s.mem_keys_of_requested _ hb

/-- No command adds a pending key answer. -/
theorem State.Performs.mem_keys {s t : State} {c : Command} (h : s.Performs c t) {b : Byte} (hb : b ∈ t.env.keys) :
    b ∈ s.env.keys := by
  cases h with
  | stepped h | executed h => exact mem_keys_of_exec h hb
  | bytesLoaded | programLoaded => exact State.copyBytes_env s _ _ ▸ hb
  | _ => exact hb

/-! ## FX0A and the key contract -/

/-- Both results of an FX0A that is answered (R201). -/
theorem execLdVxK_next {s t : State} {x : Reg} (h : exec (.ldVxK x) s = .next t) :
    t = if s.keyAnswer = keyNone then (s.request .getCurrentKey).stay
      else (s.request .getCurrentKey).setV x s.keyAnswer := by
  rw [exec_ldVxK, execLdVxK_eq_ask] at h
  exact ((State.ask_eq_next_iff _ _ _ _).1 h).2.symm

theorem toNat_sub_two (w : Word) : (w - 2).toNat = (w.toNat + 65534) % 65536 := by
  rw [BitVec.toNat_sub, Nat.add_comm]
  rfl

/-- Settles O41: no command adds a pending key answer; and FX0A is one request, and then one write of `pc` or of
`V[X]`. -/
theorem theKeyContractIsKept : Obligations.TheKeyContractIsKept := by
  refine ⟨fun s t hs h k hk => hs k ((performs_of_step h).mem_keys hk),
    fun s t x h => ⟨fun hkey => ?wait, fun hkey => ?key⟩⟩
  case wait =>
    rw [execLdVxK_next h, if_pos (show s.keyAnswer = keyNone from hkey), State.stay_eq]
    exact ⟨toNat_sub_two s.pc, fun _ => rfl⟩
  case key =>
    have hne : s.keyAnswer ≠ keyNone := fun e => absurd hkey (by rw [e]; decide)
    rw [execLdVxK_next h, if_neg hne, State.readV_setV_self]
    exact ⟨rfl, rfl, Nat.le_of_lt_succ hkey⟩

/-! ## What is answered, and what is stuck -/

/-- An instruction that asks nothing answers a next state. -/
theorem exec_of_not_asking {i : Instr} {s : State} (h : requestOf i s = none) : ∃ t, exec i s = .next t := by
  rcases exec_outcome i s with ⟨-, t, he, -⟩ | ⟨r, -, hr, -⟩
  · exact ⟨t, he⟩
  · cases h.symm.trans hr

/-- With a mediator that answers, every instruction answers a next state. -/
theorem exec_of_answering {s : State} (h : s.env.silent = false) (i : Instr) : ∃ t, exec i s = .next t := by
  rcases exec_outcome i s with ⟨-, t, he, -⟩ | ⟨r, finish, -, he, -⟩
  · exact ⟨t, he⟩
  · exact ⟨_, he.trans (State.ask_of_answering h r finish)⟩

/-- With a silent mediator, an instruction that asks is stuck in its request. -/
theorem exec_of_silent {i : Instr} {s : State} {r : Request} (h : s.env.silent = true) (hr : requestOf i s = some r) :
    exec i s = .fault (.mediatorSilent r) := by
  rcases exec_outcome i s with ⟨hn, -⟩ | ⟨r', finish, hr', he, -⟩
  · cases hn.symm.trans hr
  · cases hr.symm.trans hr'
    exact he.trans (State.ask_of_silent h r finish)

/-- An instruction faults only when stuck in its request. -/
theorem exec_fault {i : Instr} {s : State} {f : Fault} (h : exec i s = .fault f) :
    s.env.silent = true ∧ ∃ r, requestOf i s = some r ∧ f = .mediatorSilent r := by
  rcases exec_outcome i s with ⟨-, t, he, -⟩ | ⟨r, finish, hr, he, -⟩
  · cases he.symm.trans h
  · obtain ⟨hs, hf⟩ := (State.ask_eq_fault_iff s r finish f).1 (he.symm.trans h)
    exact ⟨hs, r, hr, hf.symm⟩

/-- No instruction is refused. -/
theorem exec_ne_refused (i : Instr) (s : State) (q : Refusal) : exec i s ≠ .refused q := by
  rcases exec_outcome i s with ⟨-, t, he, -⟩ | ⟨r, finish, -, he, -⟩
  · exact fun h => nomatch he.symm.trans h
  · rcases s.ask_cases r finish with ⟨-, ha⟩ | ⟨-, ha⟩ <;> exact fun h => nomatch ha.symm.trans (he.symm.trans h)

/-- The request does not depend on the pending commands. -/
theorem requestOf_setDriver (i : Instr) (s : State) (cs : List Command) :
    requestOf i (s.setDriver cs) = requestOf i s := by
  cases i <;> rfl

theorem State.wrapPc_setDriver (s : State) (cs : List Command) : (s.setDriver cs).wrapPc = s.wrapPc.setDriver cs := by
  rw [State.wrapPc_eq, State.wrapPc_eq]
  rfl

@[simp] theorem State.wrapPc_env (s : State) : s.wrapPc.env = s.env := by
  rw [State.wrapPc_eq]
  rfl

theorem State.wrapPc_silent (s : State) : s.wrapPc.env.silent = s.env.silent := by
  rw [State.wrapPc_env]

theorem State.fetchedWord_setDriver (s : State) (cs : List Command) : (s.setDriver cs).fetchedWord = s.fetchedWord := by
  rw [State.fetchedWord, State.wrapPc_setDriver]
  rfl

/-- `execute(fetch())` and its request do not depend on the pending commands. -/
theorem State.fetchExecute_setDriver (s : State) (cs : List Command) : (s.setDriver cs).fetchExecute =
    exec (decodeWord s.fetchedWord) (s.wrapPc.advance.setDriver cs) := by
  rw [State.fetchExecute, State.wrapPc_setDriver, State.fetchedWord_setDriver]
  rfl

/-- A step runs an instruction, whose request is the step's, or it makes no request and answers a next state. -/
theorem step_outcome (s : State) :
    (∃ i u, step s = exec i u ∧ u.env.silent = s.env.silent ∧ s.nextRequest = requestOf i u) ∨
    (s.nextRequest = none ∧ ∃ t, step s = .next t) := by
  rcases hd : s.env.driver with _ | ⟨c, cs⟩
  · exact .inl ⟨_, s.wrapPc.advance, step_of_idle hd, s.wrapPc_silent, by rw [State.nextRequest, hd]⟩
  · rw [step_of_pending hd]
    cases c
    case step =>
      refine .inl ⟨_, _, s.fetchExecute_setDriver cs, s.wrapPc_silent, ?_⟩
      rw [State.nextRequest, hd, requestOf_setDriver]
    case execute w =>
      refine .inl ⟨_, s.advance.setDriver cs, rfl, rfl, ?_⟩
      rw [State.nextRequest, hd, requestOf_setDriver]
    all_goals exact .inr ⟨by rw [State.nextRequest, hd], _, rfl⟩

/-- Settles O14: an instruction that asks nothing, or is answered, ends in its write, and a command other than `step` and
`execute` runs none. -/
theorem everythingAnswersANextState : Obligations.EverythingAnswersANextState := by
  refine ⟨fun i s h => h.elim exec_of_not_asking (exec_of_answering · i), fun c s h => ?command, fun s h => ?step⟩
  case command =>
    cases c
    case step =>
      have hs := h.resolve_left fun hc => hc.2 rfl
      exact exec_of_answering (s := s.wrapPc.advance) (s.wrapPc_silent.trans hs) _
    case execute w =>
      have hs := h.resolve_left fun hc => hc.1 w rfl
      exact exec_of_answering (s := s.advance) hs _
    all_goals exact ⟨_, rfl⟩
  case step =>
    rcases step_outcome s with ⟨i, u, hstep, hsilent, hreq⟩ | ⟨-, ht⟩
    · rw [hreq, ← hsilent] at h
      rw [hstep]
      exact h.elim exec_of_not_asking (exec_of_answering · i)
    · exact ht

/-- Settles O59: an instruction that asks a silent mediator is stuck, and nothing else faults in a step. -/
theorem aSilentMediatorLeavesTheStepStuck : Obligations.ASilentMediatorLeavesTheStepStuck := by
  refine ⟨fun i s r => exec_of_silent, fun s r hs hr => ?stuck, fun s => ?converse⟩
  case stuck =>
    rcases step_outcome s with ⟨i, u, hstep, hsilent, hreq⟩ | ⟨hnone, -⟩
    · rw [hstep]
      exact exec_of_silent (hsilent.trans hs) (hreq.symm.trans hr)
    · cases hnone.symm.trans hr
  case converse =>
    rcases step_outcome s with ⟨i, u, hstep, hsilent, hreq⟩ | ⟨-, t, ht⟩
    · rw [hstep, hreq, ← hsilent]
      exact ⟨fun f => exec_fault, exec_ne_refused i u⟩
    · rw [ht]
      exact ⟨nofun, nofun⟩

end Sys2Proof.Machine
end

section
/-! PROOFS. `st` influences nothing else (10_state R33): every operation commutes with a write of `st`, or writes `st`
itself whatever it was. Obligation O57. -/

namespace Sys2Proof.Machine

/-- Two outcomes that agree but for `st`: next states that differ in it alone, or the same fault. -/
def SameButSt (o o' : Host.Outcome State Fault Refusal) : Prop :=
  (∃ t u, o = .next t ∧ o' = .next u ∧ u.setSt t.st = t) ∨ ∃ f, o = .fault f ∧ o' = .fault f

theorem sameButSt_next {t u : State} (h : u.setSt t.st = t) : SameButSt (.next t) (.next u) :=
  .inl ⟨t, u, rfl, rfl, h⟩

/-- A request is answered from both states or from neither. -/
theorem sameButSt_ask (s : State) (b : Byte) (r : Request) {f g : State → State}
    (h : ∀ u : State, (g (u.setSt b)).setSt (f u).st = f u) : SameButSt (s.ask r f) ((s.setSt b).ask r g) := by
  rcases s.ask_cases r f with ⟨hs, ha⟩ | ⟨hs, ha⟩
  · rw [ha, State.ask_of_silent (s := s.setSt b) hs]
    exact .inr ⟨_, rfl, rfl⟩
  · rw [ha, State.ask_of_answering (s := s.setSt b) hs]
    exact sameButSt_next (h (s.request r))

/-! ## Operations that commute with a write of `st` -/

section Commute
variable (s : State) (b : Byte)

theorem State.skipIf_setSt (c : Bool) : (s.setSt b).skipIf c = (s.skipIf c).setSt b := by
  rw [State.skipIf_eq, State.skipIf_eq]
  rfl

theorem State.wrapPc_setSt : (s.setSt b).wrapPc = s.wrapPc.setSt b := by
  rw [State.wrapPc_eq, State.wrapPc_eq]
  rfl

theorem State.storeRegs_setSt (n : Nat) : (s.setSt b).storeRegs n = (s.storeRegs n).setSt b := by
  induction n with
  | zero => rfl
  | succ n ih =>
    rw [State.storeRegs, ih]
    rfl

theorem State.loadRegs_setSt (n : Nat) : (s.setSt b).loadRegs n = (s.loadRegs n).setSt b := by
  induction n with
  | zero => rfl
  | succ n ih =>
    rw [State.loadRegs, ih]
    rfl

theorem State.copyBytes_setSt (base : Nat) (bs : List Byte) :
    (s.setSt b).copyBytes base bs = (s.copyBytes base bs).setSt b := by
  induction bs generalizing s base with
  | nil => rfl
  | cons c bs ih => exact ih (s.writeMem (BitVec.ofNat 12 base) c) (base + 1)

theorem State.tryLoadBytes_setSt (base : Word) (bytes : List Byte) :
    (s.setSt b).tryLoadBytes base bytes = (s.tryLoadBytes base bytes).map (·.setSt b) := by
  rw [State.tryLoadBytes, State.tryLoadBytes, State.copyBytes_setSt]
  split <;> rfl

theorem State.tryLoadProgram_setSt (readable : Bool) (bytes : List Byte) :
    (s.setSt b).tryLoadProgram readable bytes = (s.tryLoadProgram readable bytes).map (·.setSt b) := by
  cases readable with
  | false => rfl
  | true =>
    rw [State.tryLoadProgram, State.tryLoadProgram, State.tryLoadBytes_setSt]
    cases s.tryLoadBytes loadBase bytes <;> rfl

theorem State.reportLoad_setSt (o : Option State) :
    (s.setSt b).reportLoad (o.map (·.setSt b)) = (s.reportLoad o).setSt b := by
  cases o <;> rfl

end Commute

/-! ## Instructions, commands, steps -/

/-- No instruction reads `st`, and FX18 writes it whatever it was. -/
theorem exec_setSt (i : Instr) (s : State) (b : Byte) : SameButSt (exec i s) (exec i (s.setSt b)) := by
  cases i
  case seImm | sneImm | seReg | sneReg =>
    refine sameButSt_next ?_
    rw [State.skipIf_setSt]
    rfl
  case cls =>
    rw [exec_cls, exec_cls, execCls_eq_ask, execCls_eq_ask]
    exact sameButSt_ask s b _ fun _ => rfl
  case rnd =>
    rw [exec_rnd, exec_rnd, execRnd_eq_ask, execRnd_eq_ask]
    exact sameButSt_ask s b _ fun _ => rfl
  case drw =>
    rw [exec_drw, exec_drw, execDrw_eq_ask, execDrw_eq_ask]
    exact sameButSt_ask s b _ fun _ => rfl
  case skp =>
    rw [exec_skp, exec_skp, execSkp_eq_ask, execSkp_eq_ask]
    refine sameButSt_ask s b _ fun u => ?_
    rw [State.skipIf_setSt]
    rfl
  case sknp =>
    rw [exec_sknp, exec_sknp, execSknp_eq_ask, execSknp_eq_ask]
    refine sameButSt_ask s b _ fun u => ?_
    rw [State.skipIf_setSt]
    rfl
  case ldVxK =>
    rw [exec_ldVxK, exec_ldVxK, execLdVxK_eq_ask, execLdVxK_eq_ask]
    refine sameButSt_ask s b _ fun u => ?_
    by_cases hkey : s.keyAnswer = keyNone
    · rw [if_pos hkey, if_pos (show (s.setSt b).keyAnswer = keyNone from hkey)]
      rfl
    · rw [if_neg hkey, if_neg (show (s.setSt b).keyAnswer ≠ keyNone from hkey)]
      rfl
  case ldMemVx =>
    refine sameButSt_next ?_
    rw [State.storeRegs_setSt]
    rfl
  case ldVxMem =>
    refine sameButSt_next ?_
    rw [State.loadRegs_setSt]
    rfl
  all_goals exact sameButSt_next rfl

theorem State.fetchExecute_setSt (s : State) (b : Byte) : SameButSt s.fetchExecute (s.setSt b).fetchExecute := by
  rw [State.fetchExecute_eq, State.fetchExecute_eq, State.wrapPc_setSt]
  exact exec_setSt _ (s.wrapPc.setPc (s.wrapPc.pc + 2)) b

theorem State.perform_setSt (s : State) (b : Byte) (c : Command) :
    SameButSt (s.perform c) ((s.setSt b).perform c) := by
  cases c with
  | step => exact s.fetchExecute_setSt b
  | execute w => exact exec_setSt _ s.advance b
  | fetch =>
    rw [State.perform_fetch, State.perform_fetch, State.wrapPc_setSt]
    exact sameButSt_next rfl
  | tickTimers | reset => exact sameButSt_next rfl
  | loadBytes base bytes =>
    rw [State.perform_loadBytes, State.perform_loadBytes, State.tryLoadBytes_setSt, State.reportLoad_setSt]
    exact sameButSt_next rfl
  | loadProgram readable bytes =>
    rw [State.perform_loadProgram, State.perform_loadProgram, State.tryLoadProgram_setSt, State.reportLoad_setSt]
    exact sameButSt_next rfl

/-- Settles O57: a step is one command, whichever value `st` has. -/
theorem theSoundTimerInfluencesNothingElse : Obligations.TheSoundTimerInfluencesNothingElse := by
  intro s b
  rw [step_eq_perform, step_eq_perform]
  exact (s.setDriver s.env.driver.tail).perform_setSt b _

end Sys2Proof.Machine
end

section
/-! PROOFS. The arithmetic instructions with a flag (43_alu R157 to R161): obligations O25, O26 and O27. -/

namespace Sys2Proof.Machine

/-! ## A result with a flag -/

theorem vf_eq : vf = 15 := rfl

/-- The bit the flag write puts in VF. -/
theorem flagByte_decide (p : Prop) [Decidable p] : flagByte (decide p) = if p then 0x01 else 0x00 := by
  by_cases h : p <;> simp [flagByte, h]

theorem State.setResult_keepsRegsBut (s : State) (x : Reg) (b : Byte) (f : Bool) :
    KeepsRegsBut (fun r => r = x ∨ r = 15) s (s.setResult x b f) := by
  intro r hr
  obtain ⟨hx, hvf⟩ := not_or.1 hr
  rw [State.readV_setResult, vf_eq, if_neg hvf, if_neg hx]

theorem State.setResult_keepsAllButRegs (s : State) (x : Reg) (b : Byte) (f : Bool) :
    KeepsAllButRegs s (s.setResult x b f) :=
  ⟨⟨rfl, rfl, ⟨rfl, fun _ => rfl⟩, ⟨rfl, rfl⟩, fun _ => rfl⟩, rfl⟩

/-- All that an instruction with a flag leaves: the value, the flag of a condition, and the rest as it was (R150). -/
theorem State.setResult_spec (s : State) (x : Reg) {b : Byte} {f : Bool} {n : Nat} {p : Prop} [Decidable p]
    (hb : b.toNat = n) (hf : f = decide p) :
    (x ≠ 15 → ((s.setResult x b f).readV x).toNat = n) ∧
    (s.setResult x b f).readV 15 = (if p then 0x01 else 0x00) ∧
    KeepsRegsBut (fun r => r = x ∨ r = 15) s (s.setResult x b f) ∧ KeepsAllButRegs s (s.setResult x b f) := by
  refine ⟨fun hx => ?value, ?flag, s.setResult_keepsRegsBut x b f, s.setResult_keepsAllButRegs x b f⟩
  case value => rw [State.readV_setResult, vf_eq, if_neg hx, if_pos rfl, hb]
  case flag => rw [State.readV_setResult, vf_eq, if_pos rfl, hf, flagByte_decide]

/-! ## The values -/

/-- R158, R160: the byte difference wraps at 256. -/
theorem toNat_byte_sub (a b : Byte) : (a - b).toNat = (a.toNat + 256 - b.toNat) % 256 := by
  have hb : b.toNat < 256 := b.isLt
  rw [BitVec.toNat_sub]
  omega

/-- R159: the bit shifted out at the right is the lowest. -/
theorem shiftedOutLow_eq (b : Byte) : shiftedOutLow b = decide (b.toNat % 2 = 1) :=
  Nat.testBit_zero b.toNat

/-- R161: the bit shifted out at the left is the highest. -/
theorem shiftedOutHigh_eq (b : Byte) : shiftedOutHigh b = decide (128 ≤ b.toNat) :=
  BitVec.msb_eq_decide b

theorem toNat_shiftRight_one (b : Byte) : (b >>> 1).toNat = b.toNat / 2 := by
  rw [BitVec.toNat_ushiftRight, Nat.shiftRight_eq_div_pow]

theorem toNat_shiftLeft_one (b : Byte) : (b <<< 1).toNat = 2 * b.toNat % 256 := by
  rw [BitVec.toNat_shiftLeft, Nat.shiftLeft_eq, Nat.mul_comm]

/-! ## O25, O26, O27 -/

/-- Settles O25: the byte sum wraps at 256, and its flag is the carry. -/
theorem addWritesTheSumAndItsCarry : Obligations.AddWritesTheSumAndItsCarry := fun s x y =>
  ⟨_, exec_addReg s x y, s.setResult_spec x (BitVec.toNat_add _ _) rfl⟩

/-- Settles O26: each byte difference wraps at 256, and its flag is the borrow, in the order of its operands. -/
theorem subtractionsWriteTheDifferenceAndItsBorrow : Obligations.SubtractionsWriteTheDifferenceAndItsBorrow :=
  fun s x y => ⟨⟨_, exec_sub s x y, s.setResult_spec x (toNat_byte_sub _ _) rfl⟩,
    ⟨_, exec_subn s x y, s.setResult_spec x (toNat_byte_sub _ _) rfl⟩⟩

/-- Settles O27: each shift is of the old `V[Y]` by one place, and its flag is the bit that falls off. -/
theorem shiftsMoveVyAndKeepTheBitShiftedOut : Obligations.ShiftsMoveVyAndKeepTheBitShiftedOut :=
  fun s x y => ⟨⟨_, exec_shr s x y, s.setResult_spec x (toNat_shiftRight_one _) (shiftedOutLow_eq _)⟩,
    ⟨_, exec_shl s x y, s.setResult_spec x (toNat_shiftLeft_one _) (shiftedOutHigh_eq _)⟩⟩

end Sys2Proof.Machine
end

section
/-! PROOFS. Memory instructions (20_memory R54 to R61, 44_index_memory R173 to R175): obligations O13, O29, O30, O31, O32
and O33. -/

namespace Sys2Proof.Machine

/-! ## O29 -/

theorem State.toNat_ea (s : State) (k : Nat) : (s.ea k).toNat = (s.i.toNat + k) % 4096 := BitVec.toNat_ofNat ..

/-- Settles O29: the address is cut to 12 bits, and 16 addresses in a row stay apart below 4096. -/
theorem effectiveAddressesWrapAndAreDistinct : Obligations.EffectiveAddressesWrapAndAreDistinct :=
  fun s _ _ => ⟨s.toNat_ea _, fun hj hk => (s.ea_inj (by omega) (by omega)).1⟩

/-! ## O30 -/

theorem toNat_hundreds (b : Byte) : (hundreds b).toNat = b.toNat / 100 := by
  have hb : b.toNat < 256 := b.isLt
  rw [hundreds, BitVec.toNat_ofNat]
  omega

theorem toNat_tens (b : Byte) : (tens b).toNat = b.toNat / 10 % 10 := by
  rw [tens, BitVec.toNat_ofNat]
  omega

theorem toNat_ones (b : Byte) : (ones b).toNat = b.toNat % 10 := by
  rw [ones, BitVec.toNat_ofNat]
  omega

theorem State.ea_ne (s : State) {j k : Nat} (hj : j < 4096) (hk : k < 4096) (h : j ≠ k) : s.ea j ≠ s.ea k :=
  fun e => h ((s.ea_inj hj hk).1 e)

/-- Settles O30: three writes at three different addresses (R54), each of one digit. -/
theorem bcdStoresThreeDigits : Obligations.BcdStoresThreeDigits := by
  intro s x
  refine ⟨_, exec_ldB s x, ?hundreds, ?tens, ?ones, ?frame, ⟨fun _ => rfl, rfl, rfl, ⟨rfl, fun _ => rfl⟩, rfl, rfl⟩, rfl⟩
  case hundreds =>
    rw [State.readMem_writeMem_other _ _ (s.ea_ne (by decide) (by decide) (by decide)),
      State.readMem_writeMem_other _ _ (s.ea_ne (by decide) (by decide) (by decide)), State.readMem_writeMem_self,
      toNat_hundreds]
  case tens =>
    rw [State.readMem_writeMem_other _ _ (s.ea_ne (by decide) (by decide) (by decide)), State.readMem_writeMem_self,
      toNat_tens]
  case ones => rw [State.readMem_writeMem_self, toNat_ones]
  case frame =>
    intro a ha
    simp only [not_or] at ha
    obtain ⟨h0, h1, h2⟩ := ha
    rw [State.readMem_writeMem_other _ _ h2, State.readMem_writeMem_other _ _ h1, State.readMem_writeMem_other _ _ h0]

/-! ## O31, O32, O33 -/

theorem State.storeRegs_keepsAllButMemory (s : State) (n : Nat) : KeepsAllButMemory s (s.storeRegs n) := by
  rw [State.storeRegs_eq]
  exact ⟨⟨fun _ => rfl, rfl, rfl, ⟨rfl, fun _ => rfl⟩, rfl, rfl⟩, rfl⟩

theorem State.loadRegs_keepsAllButRegs (s : State) (n : Nat) : KeepsAllButRegs s (s.loadRegs n) := by
  rw [State.loadRegs_eq]
  exact ⟨⟨rfl, rfl, ⟨rfl, fun _ => rfl⟩, ⟨rfl, rfl⟩, fun _ => rfl⟩, rfl⟩

/-- The block store of `V[0]` to `V[X]` puts each at its address. -/
theorem State.readMem_storeRegs_reg (s : State) {x k : Reg} (h : k.toNat ≤ x.toNat) :
    (s.storeRegs (x.toNat + 1)).readMem (s.ea k.toNat) = s.readV k := by
  have hx : x.toNat < 16 := x.isLt
  rw [State.readMem_storeRegs s (Nat.lt_succ_of_le h) (by omega), BitVec.ofNat_toNat, BitVec.setWidth_eq]

/-- Settles O31: the block store writes each register at its own address, and no other. -/
theorem blockStoreWritesTheRegisters : Obligations.BlockStoreWritesTheRegisters := by
  intro s x
  refine ⟨_, exec_ldMemVx s x, fun k => s.readMem_storeRegs_reg, fun a ha => ?frame, s.storeRegs_keepsAllButMemory _⟩
  case frame => exact s.readMem_storeRegs_other _ fun k hk e => ha ⟨k, Nat.le_of_lt_succ hk, e⟩

/-- Settles O32: the block load fills the registers up to X from their addresses, and no other. -/
theorem blockLoadFillsTheRegisters : Obligations.BlockLoadFillsTheRegisters := by
  intro s x
  refine ⟨_, exec_ldVxMem s x, fun k hk => ?loaded, fun r hr => ?kept, s.loadRegs_keepsAllButRegs _⟩
  case loaded => rw [State.readV_loadRegs s x.isLt, if_pos (Nat.lt_succ_of_le hk)]
  case kept => rw [State.readV_loadRegs s x.isLt, if_neg fun h => hr (Nat.le_of_lt_succ h)]

/-- Settles O33: the load reads, at the same addresses, what the store put there. -/
theorem blockLoadBringsBackABlockStore : Obligations.BlockLoadBringsBackABlockStore := by
  intro s x
  refine ⟨_, exec_ldMemVx s x, fun u hmem hi => ⟨_, exec_ldVxMem u x, fun k hk => ?_⟩⟩
  have hread : u.readMem (u.ea k.toNat) = (s.storeRegs (x.toNat + 1)).readMem (s.ea k.toNat) := by
    rw [State.readMem, hmem, State.ea, hi]
    rfl
  rw [State.readV_loadRegs u x.isLt, if_pos (Nat.lt_succ_of_le hk), hread, s.readMem_storeRegs_reg hk]

/-! ## O13 -/

/-- Consecutive offsets are consecutive addresses, around the top of memory. -/
theorem State.ea_succ (s : State) (k : Nat) : s.ea (k + 1) = s.ea k + 1 := BitVec.ofNat_add (s.i.toNat + k) 1

/-- Settles O13: below the ceiling the next `fetch` reads the bytes at `pc` and after it, which are the store's bytes `k`
and `k + 1`. -/
theorem storedCodeIsWhatTheNextFetchReturns : Obligations.StoredCodeIsWhatTheNextFetchReturns := by
  intro s x k hk hpc hea
  refine ⟨_, exec_ldMemVx s x, ?_⟩
  have hx : x.toNat < 16 := x.isLt
  have htpc : (s.storeRegs (x.toNat + 1)).pc = s.pc := by rw [State.storeRegs_eq]
  have hea' : s.ea (k + 1) = BitVec.ofNat 12 (s.pc.toNat + 1) := by
    rw [s.ea_succ, hea, BitVec.ofNat_add]
    rfl
  rw [State.fetchedWord_of_below (by rwa [htpc]), htpc, ← hea, ← hea',
    State.readMem_storeRegs s (by omega) (by omega), State.readMem_storeRegs s (by omega) (by omega)]

end Sys2Proof.Machine
end

section
/-! PROOFS. The cycle (40_cycle R101 to R107, 47_unmatched R230, 70_reset_and_hazards R282): obligations O8, O11, O12,
O45, O46 and O58. -/

namespace Sys2Proof.Machine

/-! ## O8 -/

/-- The decoder on two bytes is the decoder on their word. -/
theorem decodeWord_of_decode {hi lo : Byte} {i : Instr} (h : decode [hi, lo] = .ok i []) :
    decodeWord (wordOfBytes hi lo) = i := by
  rw [decode] at h
  cases h
  rfl

/-- R106: `execute(fetch())` runs what the two bytes at the wrapped `pc` decode to. -/
theorem State.fetchExecute_of_decode {s : State} {p : Word} {i : Instr}
    (hp : p = if 0xE8F ≤ s.pc.toNat then 0x200 else s.pc)
    (h : decode [s.readMem (p.setWidth 12), s.readMem (p.setWidth 12 + 1)] = .ok i []) :
    s.fetchExecute = exec i (s.setPc (p + 2)) := by
  have hwrap : s.wrapPc = s.setPc p := by
    rw [State.wrapPc_eq, hp]
    rfl
  rw [State.fetchExecute_eq, hwrap, ← decodeWord_of_decode h]
  rfl

/-- Settles O8: a step and the commands `step` and `execute` are one run of the decoder and then of E3. -/
theorem stepRunsTheDecodedInstruction : Obligations.StepRunsTheDecodedInstruction := by
  refine ⟨fun s i p hp h => ?step, fun s hi lo i h => ?execute⟩
  case step =>
    have hfetch := State.fetchExecute_of_decode hp h
    exact ⟨fun hidle => (step_of_idle hidle).trans hfetch, hfetch⟩
  case execute => rw [State.perform_execute, State.execute_eq, decodeWord_of_decode h]

/-! ## O11 -/

theorem State.wrapPc_keepsAllButPc (s : State) : KeepsAllButPc s s.wrapPc := by
  rw [State.wrapPc_eq]
  exact s.setPc_keepsAllButPc _

/-- Settles O11: F1 is one write of `pc`, and below the ceiling it makes none, so a second `fetch` reads the same
bytes. -/
theorem fetchWrapsAtTheCeilingAndOnlyReads : Obligations.FetchWrapsAtTheCeilingAndOnlyReads := by
  intro s
  obtain ⟨⟨hregs, hi, hstack, htimers, hmem⟩, henv⟩ := s.wrapPc_keepsAllButPc
  refine ⟨s.wrapPc.emit (.fetched s.wrapPc.opcodeAtPc), s.perform_fetch, ?pc, s.wrapPc_below, hregs, hi, hstack, htimers,
    hmem, ?trace, ?again⟩
  case pc =>
    rw [State.emit_pc, State.wrapPc_eq]
    rfl
  case trace =>
    rw [State.emit_trace, henv]
    rfl
  case again =>
    refine ⟨_, State.perform_fetch _, ?_⟩
    rw [State.wrapPc_of_below (s := s.wrapPc.emit _) s.wrapPc_below]
    exact ⟨rfl, rfl⟩

/-! ## O12 -/

/-- F1 sets `pc` to 0x200 at and beyond the ceiling. -/
theorem State.wrapPc_of_beyond {s : State} (h : loadCeil ≤ s.pc.toNat) : s.wrapPc = s.setPc loadBase := by
  rw [State.wrapPc_eq, if_pos h]

/-- At and beyond the ceiling the opcode is made of the bytes at 0x200 (R101). -/
theorem State.fetchedWord_of_beyond {s : State} (h : loadCeil ≤ s.pc.toNat) :
    s.fetchedWord = wordOfBytes (s.readMem 0x200) (s.readMem 0x201) := by
  rw [State.fetchedWord, State.wrapPc_of_beyond h]
  rfl

/-- Settles O12: the jump writes `pc` alone, and `fetch` reads at that `pc` or, from the ceiling on, at 0x200. -/
theorem fetchAfterAJumpReadsTheTarget : Obligations.FetchAfterAJumpReadsTheTarget := by
  intro s nnn
  have hpc : (s.setPc (zextAddr nnn)).pc.toNat = nnn.toNat := toNat_zextAddr nnn
  refine ⟨_, exec_jp s nnn, fun h => ?below, fun h => ?beyond⟩
  case below =>
    rw [State.fetchedWord_of_below (hpc.trans_lt h), hpc, BitVec.ofNat_add, BitVec.ofNat_toNat, BitVec.setWidth_eq]
    rfl
  case beyond => exact State.fetchedWord_of_beyond (h.trans_eq hpc.symm)

/-! ## O45, O46 -/

/-- E1 and then nothing, for a word of the unmatched space (R230). -/
theorem State.execute_of_unmatched (s : State) {w : Word} (h : unmatchedWord w = true) :
    s.execute w = .next s.advance := by
  rw [State.execute, decodeWord_of_unmatched h]
  rfl

theorem toNat_add_two (w : Word) : (w + 2).toNat = (w.toNat + 2) % 65536 := BitVec.toNat_add _ _

/-- Settles O45: a word of the unmatched space decodes to the no-op, whose E3 is nothing. -/
theorem unmatchedWordsOnlyAdvancePc : Obligations.UnmatchedWordsOnlyAdvancePc :=
  ⟨fun s _ h => ⟨s.advance, s.execute_of_unmatched h, toNat_add_two s.pc, s.setPc_keepsAllButPc _⟩, exec_nop⟩

/-- A step below the ceiling runs the word at `pc`. -/
theorem step_of_below {s : State} (hidle : s.env.driver = []) (hpc : s.pc.toNat < loadCeil) :
    step s = s.execute s.opcodeAtPc := by
  rw [step_of_idle hidle, State.fetchExecute, State.fetchedWord, State.wrapPc_of_below hpc]

/-- A step over two zero bytes advances `pc`. -/
theorem step_of_zeros {s : State} (hidle : s.env.driver = []) (hpc : s.pc.toNat < loadCeil)
    (hhi : s.readMem (BitVec.ofNat 12 s.pc.toNat) = 0x00) (hlo : s.readMem (BitVec.ofNat 12 (s.pc.toNat + 1)) = 0x00) :
    step s = .next s.advance := by
  have hword : s.opcodeAtPc = 0x0000 := by
    have h := State.fetchedWord_of_below hpc
    rw [State.fetchedWord, State.wrapPc_of_below hpc, hhi, hlo] at h
    exact h
  rw [step_of_below hidle hpc, hword]
  exact s.execute_of_unmatched rfl

theorem KeepsAllButPc.trans {s t u : State} (h : KeepsAllButPc s t) (h' : KeepsAllButPc t u) : KeepsAllButPc s u := by
  obtain ⟨⟨hregs, hi, ⟨hsp, hstack⟩, ⟨hdt, hst⟩, hmem⟩, henv⟩ := h
  obtain ⟨⟨hregs', hi', ⟨hsp', hstack'⟩, ⟨hdt', hst'⟩, hmem'⟩, henv'⟩ := h'
  exact ⟨⟨fun r => (hregs' r).trans (hregs r), hi'.trans hi,
    ⟨hsp'.trans hsp, fun k => (hstack' k).trans (hstack k)⟩, ⟨hdt'.trans hdt, hst'.trans hst⟩,
    fun a => (hmem' a).trans (hmem a)⟩, henv'.trans henv⟩

/-- `n` steps through zeroed memory up to the ceiling. -/
theorem run_zeros (n : Nat) {s : State} (hidle : s.env.driver = []) (hend : s.pc.toNat + 2 * n ≤ 0xE90)
    (hzero : ∀ a : Addr, s.pc.toNat ≤ a.toNat → a.toNat < s.pc.toNat + 2 * n → s.readMem a = 0x00) :
    ∃ t, Host.Core.run core n s = .next t ∧ t.pc.toNat = s.pc.toNat + 2 * n ∧ KeepsAllButPc s t := by
  induction n generalizing s with
  | zero => exact ⟨s, rfl, rfl, s.setPc_keepsAllButPc s.pc⟩
  | succ n ih =>
    have hread (k : Nat) (hk : k < 2) : s.readMem (BitVec.ofNat 12 (s.pc.toNat + k)) = 0x00 := by
      apply hzero <;> rw [BitVec.toNat_ofNat, Nat.mod_eq_of_lt (by omega)] <;> omega
    have hpc : s.advance.pc.toNat = s.pc.toNat + 2 := (toNat_add_two s.pc).trans (Nat.mod_eq_of_lt (by omega))
    have hstep : step s = .next s.advance :=
      step_of_zeros hidle (show s.pc.toNat < 0xE8F by omega) (hread 0 (by decide)) (hread 1 (by decide))
    obtain ⟨t, hrun, htpc, hkeep⟩ := ih (s := s.advance) hidle (by omega)
      fun a hlo hhi => hzero a (by omega) (by omega)
    exact ⟨t, (core_run_succ n hstep).trans hrun, by omega, (s.setPc_keepsAllButPc _).trans hkeep⟩

/-- Settles O46: the walk ends at most at 0xE90, and from 0xE8F on F1 wraps. -/
theorem zeroedMemoryIsWalkedUpToTheCeiling : Obligations.ZeroedMemoryIsWalkedUpToTheCeiling := by
  intro s n hidle hend hzero
  obtain ⟨t, hrun, hpc, hkeep⟩ := run_zeros n hidle hend hzero
  exact ⟨t, hrun, hpc, hkeep, fun h => congrArg State.pc (State.wrapPc_of_beyond h)⟩

/-! ## O58 -/

/-- A jump to itself below the ceiling undoes E1. -/
theorem step_of_halted {s : State} (hidle : s.env.driver = []) (h : s.Halted) : step s = .next s := by
  obtain ⟨hpc, hword⟩ := h
  have hself : zextAddr (s.pc.setWidth 12) = s.pc := by
    apply BitVec.eq_of_toNat_eq
    have hlt : s.pc.toNat < 0xE8F := hpc
    rw [toNat_zextAddr, BitVec.toNat_setWidth]
    exact Nat.mod_eq_of_lt (by omega)
  rw [step_of_below hidle hpc, hword, State.execute, decodeWord_encode rfl, exec_jp, execJp, hself]
  rfl

/-- Settles O58, by induction on the steps: each leaves the state as it is. -/
theorem aHaltedProgramStaysAsItIs : Obligations.AHaltedProgramStaysAsItIs := by
  intro s n hidle h
  induction n with
  | zero => rfl
  | succ n ih => rw [core_run_succ n (step_of_halted hidle h), ih]

end Sys2Proof.Machine
end

section
/-! PROOFS. Calls and returns, skips, ticks and loads (41_control R120 to R126, 42_skip R141 to R144, 60_exceptions R246,
20_memory R62 and R63): obligations O16, O17, O18, O19, O20, O21, O44, O48 and O49. -/

namespace Sys2Proof.Machine

/-! ## O16, O17, O19, O20 -/

/-- Settles O16: a push of the advanced `pc`, and then a jump. -/
theorem callPushesTheReturnAddress : Obligations.CallPushesTheReturnAddress := by
  intro s nnn
  refine ⟨_, exec_call s nnn, toNat_zextAddr nnn, ?pushed, fun k hk => ?other, s.pushCall_sp_val s.pc, fun _ => rfl, rfl,
    ⟨rfl, rfl⟩, fun _ => rfl, rfl⟩
  case pushed => rw [State.stackAt_setPc, State.stackAt_pushCall, if_pos rfl]
  case other => rw [State.stackAt_setPc, State.stackAt_pushCall, if_neg hk]

/-- Settles O17: a pop, and then a jump to the entry popped. -/
theorem returnPopsTheStack : Obligations.ReturnPopsTheStack := fun s =>
  ⟨_, exec_ret s, s.spAfterPop_val, rfl, fun _ => rfl, fun _ => rfl, rfl, ⟨rfl, rfl⟩, fun _ => rfl, rfl⟩

/-- Settles O19: the push writes entry 15 and leaves `sp`, so the pop reads entry 14, which the push left. -/
theorem callAtTheStackLimitLosesItsReturn : Obligations.CallAtTheStackLimitLosesItsReturn := by
  intro s nnn h
  have hsp : s.sp = 15 := h
  have htop : (s.pushCall s.pc).sp = 15 := by rw [State.pushCall_sp, hsp]; rfl
  have hpop : ((s.pushCall s.pc).setPc (zextAddr nnn)).spAfterPop = 14 := by
    rw [State.spAfterPop, State.setPc_sp, htop]
    rfl
  refine ⟨_, _, exec_call s nnn, htop, ?pushed, exec_ret _, hpop, ?popped⟩
  case pushed => rw [State.stackAt_setPc, State.stackAt_pushCall, hsp, if_pos rfl]
  case popped =>
    rw [State.setPc_pc, State.poppedAddr, hpop, State.stackAt_setPc, State.stackAt_pushCall, hsp, if_neg (by decide)]

/-- Settles O20: at 0 a pop leaves `sp` and reads entry 0. -/
theorem returnFromNothingJumpsToEntryZero : Obligations.ReturnFromNothingJumpsToEntryZero := by
  intro s h
  have hsp : s.sp = 0 := h
  have hafter : s.spAfterPop = s.sp := by
    rw [State.spAfterPop, hsp]
    rfl
  have hpop : s.popCall = s := by rw [State.popCall, hafter]
  rw [exec_ret, execRet, hpop, State.poppedAddr, hafter, hsp]

/-! ## O18 -/

/-- E1 and then the instruction, for its own word. -/
theorem State.execute_encode (s : State) {i : Instr} (h : i.wellFormed = true) :
    s.execute (encode i) = exec i s.advance := by
  rw [State.execute, decodeWord_encode h]

theorem State.executeAll_cons {s t : State} {w : Word} (ws : List Word) (h : s.execute w = .next t) :
    s.executeAll (w :: ws) = t.executeAll ws := by
  rw [State.executeAll, h]

/-- Opcodes after a list of opcodes that ends in a next state are executed from there. -/
theorem State.executeAll_append {s t : State} {ws : List Word} (vs : List Word) (h : s.executeAll ws = .next t) :
    s.executeAll (ws ++ vs) = t.executeAll vs := by
  induction ws generalizing s with
  | nil =>
    cases h
    rfl
  | cons w ws ih =>
    rw [State.executeAll] at h
    split at h
    case h_1 u hu => exact (State.executeAll_cons _ hu).trans (ih h)
    all_goals cases h

/-- `t` is `s` but for `pc`, and for stack entries from `s.sp` on. -/
abbrev KeepsBelowSp (s t : State) : Prop :=
  t = { s with pc := t.pc, stack := t.stack } ∧ ∀ k, k < s.sp → t.stackAt k = s.stackAt k

/-- The state inside a call: the return address is the top entry. -/
def State.called (s : State) (nnn : Addr) : State := (s.advance.pushCall (s.pc + 2)).setPc (zextAddr nnn)

theorem State.execute_call (s : State) (nnn : Addr) : s.execute (encode (.call nnn)) = .next (s.called nnn) :=
  s.execute_encode rfl

theorem State.called_sp_val (s : State) (nnn : Addr) (h : s.sp.val < 15) : (s.called nnn).sp.val = s.sp.val + 1 :=
  (s.advance.pushCall_sp_val (s.pc + 2)).trans (min_eq_right h)

/-- A return from a state that kept all below the stack pointer of the callee goes back to the caller. -/
theorem State.return_from_call {s u : State} {nnn : Addr} (h : s.sp.val < 15) (hu : KeepsBelowSp (s.called nnn) u) :
    ∃ t, u.execute (encode .ret) = .next t ∧ t.pc = s.pc + 2 ∧ KeepsBelowSp s t := by
  obtain ⟨heq, hbelow⟩ := hu
  have hcallee := s.called_sp_val nnn h
  have husp : u.sp = (s.called nnn).sp := by rw [heq]
  have hsp : u.advance.spAfterPop = s.sp := by
    apply Fin.ext
    rw [State.spAfterPop_val, show u.advance.sp = u.sp from rfl, husp, hcallee, Nat.add_sub_cancel]
  have hentry (k : Fin 16) (hk : k ≤ s.sp) : u.stackAt k = if k = s.sp then s.pc + 2 else s.stackAt k := by
    rw [hbelow k (Fin.lt_def.2 (by omega))]
    exact s.advance.stackAt_pushCall (s.pc + 2) k
  refine ⟨_, u.execute_encode rfl, ?pc, ?rest, fun k hk => ?below⟩
  case pc =>
    rw [State.setPc_pc, State.poppedAddr, hsp]
    exact (hentry s.sp le_rfl).trans (if_pos rfl)
  case rest =>
    rw [State.popCall, hsp, heq]
    rfl
  case below => exact (hentry k hk.le).trans (if_neg hk.ne)

/-- Nested calls and as many returns, by induction on the depth: the innermost pair is the last call and the first
return. -/
theorem executeAll_nested_calls (targets : List Addr) {s : State} (h : s.sp.val + targets.length ≤ 15) :
    ∃ t, s.executeAll (targets.map (fun nnn => encode (.call nnn)) ++ List.replicate targets.length (encode .ret)) =
      .next t ∧ (targets ≠ [] → t.pc = s.pc + 2) ∧ KeepsBelowSp s t := by
  induction targets generalizing s with
  | nil => exact ⟨s, rfl, fun h => absurd rfl h, rfl, fun _ _ => rfl⟩
  | cons nnn targets ih =>
    rw [List.length_cons] at h
    have hlt : s.sp.val < 15 := by omega
    have hsp := s.called_sp_val nnn hlt
    obtain ⟨u, hrun, -, hu⟩ := ih (s := s.called nnn) (by omega)
    obtain ⟨t, hret, hpc, ht⟩ := State.return_from_call hlt hu
    refine ⟨t, ?run, fun _ => hpc, ht⟩
    case run =>
      rw [List.map_cons, List.length_cons, List.replicate_succ', List.cons_append, ← List.append_assoc,
        State.executeAll_cons _ (s.execute_call nnn), State.executeAll_append _ hrun, State.executeAll_cons _ hret]
      rfl

/-- Settles O18, by the induction above: what is kept below the first caller's `sp`, and the rest of the state. -/
theorem nestedCallsReturnToTheirCallers : Obligations.NestedCallsReturnToTheirCallers := by
  intro s targets hlen hne
  obtain ⟨t, hrun, hpc, heq, hbelow⟩ := executeAll_nested_calls targets hlen
  refine ⟨t, hrun, hpc hne, ?_⟩
  rw [heq] at hbelow ⊢
  exact ⟨rfl, fun _ => rfl, rfl, ⟨rfl, rfl⟩, fun _ => rfl, rfl, hbelow⟩

/-! ## O21 -/

/-- A conditional skip adds 2 to `pc`, modulo 65536, exactly when its condition holds. -/
theorem State.toNat_pc_skipIf (s : State) {c : Bool} {p : Prop} [Decidable p] (hc : c = true ↔ p) :
    (s.skipIf c).pc.toNat = if p then (s.pc.toNat + 2) % 65536 else s.pc.toNat := by
  rw [State.skipIf_eq, State.setPc_pc]
  by_cases h : p
  · rw [if_pos (hc.2 h), if_pos h, toNat_add_two]
  · rw [if_neg (h ∘ hc.1), if_neg h]

theorem State.skipIf_keepsAllButPc (s : State) (c : Bool) : KeepsAllButPc s (s.skipIf c) := by
  rw [State.skipIf_eq]
  exact s.setPc_keepsAllButPc _

/-- Settles O21: each skip is one conditional skip, on its comparison. -/
theorem registerSkipsAddTwoWhenTheyHold : Obligations.RegisterSkipsAddTwoWhenTheyHold := fun s x y nn =>
  ⟨⟨_, exec_seImm s x nn, s.skipIf_keepsAllButPc _, s.toNat_pc_skipIf beq_iff_eq⟩,
    ⟨_, exec_sneImm s x nn, s.skipIf_keepsAllButPc _, s.toNat_pc_skipIf bne_iff_ne⟩,
    ⟨_, exec_seReg s x y, s.skipIf_keepsAllButPc _, s.toNat_pc_skipIf beq_iff_eq⟩,
    ⟨_, exec_sneReg s x y, s.skipIf_keepsAllButPc _, s.toNat_pc_skipIf bne_iff_ne⟩⟩

/-! ## O44 -/

theorem toNat_tickByte (b : Byte) : (tickByte b).toNat = b.toNat - 1 := by
  unfold tickByte
  split
  case isTrue h =>
    rw [h]
    rfl
  case isFalse h =>
    have hpos : 0 < b.toNat := BitVec.toNat_pos_of_ne_zero h
    exact BitVec.toNat_sub_of_le (y := 1) hpos

/-- Settles O44: a tick takes 1 off each timer, stopping at 0, and `n` ticks are one tick after `n - 1`. -/
theorem ticksCountTheTimersDownToZero : Obligations.TicksCountTheTimersDownToZero := by
  intro s
  refine ⟨⟨_, s.perform_tickTimers, toNat_tickByte _, toNat_tickByte _, fun _ => rfl, rfl, rfl, ⟨rfl, fun _ => rfl⟩,
    fun _ => rfl, rfl⟩, fun n => ?ticks⟩
  case ticks =>
    induction n with
    | zero => exact ⟨rfl, rfl⟩
    | succ n ih =>
      obtain ⟨hdt, hst⟩ := ih
      rw [Function.iterate_succ_apply', State.tickTimers_dt, State.tickTimers_st, toNat_tickByte, toNat_tickByte, hdt,
        hst]
      exact ⟨rfl, rfl⟩

/-! ## O48, O49 -/

/-- The copy of a load command: byte `k` stands at `base + k`. -/
theorem State.readMem_copyBytes_at (s : State) {base k : Nat} {bytes : List Byte} (h : base + bytes.length ≤ 4096)
    (hk : k < bytes.length) : (s.copyBytes base bytes).readMem (BitVec.ofNat 12 (base + k)) = bytes[k] := by
  have ha : (BitVec.ofNat 12 (base + k)).toNat = base + k := by
    rw [BitVec.toNat_ofNat]
    exact Nat.mod_eq_of_lt (by omega)
  rw [State.readMem_copyBytes s base bytes h, ha, if_pos (by omega), Nat.add_sub_cancel_left,
    List.getD_eq_getElem _ _ hk]

/-- The copy of a load command leaves memory outside its bytes. -/
theorem State.copyBytes_keepsMemoryBut (s : State) {base : Nat} {bytes : List Byte} (h : base + bytes.length ≤ 4096) :
    KeepsMemoryBut (fun a => base ≤ a.toNat ∧ a.toNat < base + bytes.length) s (s.copyBytes base bytes) := by
  intro a ha
  rw [State.readMem_copyBytes s base bytes h, if_neg ha]

theorem State.copyBytes_keepsCoreButMemory (s : State) (base : Nat) (bytes : List Byte) :
    KeepsCoreButMemory s (s.copyBytes base bytes) := by
  rw [State.copyBytes_eq]
  exact ⟨fun _ => rfl, rfl, rfl, ⟨rfl, fun _ => rfl⟩, rfl, rfl⟩

/-- Settles O48: a load that fits is the copy, and the result recorded. -/
theorem loadBytesCopiesAndKeepsTheRest : Obligations.LoadBytesCopiesAndKeepsTheRest := by
  intro s base bytes h
  have hfit : base.toNat + bytes.length ≤ 4096 := by omega
  have hload : s.tryLoadBytes base bytes = some (s.copyBytes base.toNat bytes) := if_neg (Nat.not_lt.2 h)
  refine ⟨(s.copyBytes base.toNat bytes).emit .loadOk, ?perform, ?trace, fun k hk => s.readMem_copyBytes_at hfit hk,
    s.copyBytes_keepsMemoryBut hfit, s.copyBytes_keepsCoreButMemory _ _⟩
  case perform =>
    rw [State.perform_loadBytes, hload]
    rfl
  case trace => rw [State.emit_trace, State.copyBytes_env]

/-- Settles O49: a program that fits is the copy to 0x200, one write of `pc`, and the result recorded. -/
theorem loadProgramCopiesAndSetsPc : Obligations.LoadProgramCopiesAndSetsPc := by
  intro s bytes h
  have hfit : 0x200 + bytes.length ≤ 4096 := by omega
  have hload : s.tryLoadProgram true bytes = some ((s.copyBytes 0x200 bytes).setPc loadBase) := by
    rcases s.loadProgram_cases true bytes with ⟨hunreadable, -⟩ | ⟨hlong, -⟩ | ⟨-, -, heq⟩
    · cases hunreadable
    · exact absurd h (Nat.not_le.2 hlong)
    · exact heq
  obtain ⟨hregs, hi, -, hstack, htimers⟩ := s.copyBytes_keepsCoreButMemory 0x200 bytes
  refine ⟨((s.copyBytes 0x200 bytes).setPc loadBase).emit .loadOk, ?perform, ?trace, rfl,
    fun k hk => s.readMem_copyBytes_at hfit hk, s.copyBytes_keepsMemoryBut hfit, hregs, hi, hstack, htimers⟩
  case perform =>
    rw [State.perform_loadProgram, hload]
    rfl
  case trace => rw [State.emit_trace, State.setPc_env, State.copyBytes_env]

end Sys2Proof.Machine
end

section
/-! PROOFS. The instructions that use the mediator (45_mediator_ops R196 to R201): obligations O34, O35, O36, O37 and
O38. -/

namespace Sys2Proof.Machine

/-! ## The answer to a request, and what it uses up -/

section Answers
variable {s : State}

theorem State.keyAnswer_of_pending {b : Byte} {bs : List Byte} (h : s.env.keys = b :: bs) : s.keyAnswer = b := by
  rw [State.keyAnswer, h, List.headD_cons]

theorem State.randomAnswer_of_pending {b : Byte} {bs : List Byte} (h : s.env.randoms = b :: bs) :
    s.randomAnswer = b := by
  rw [State.randomAnswer, h, List.headD_cons]

theorem State.collisionAnswer_of_pending {c : Bool} {cs : List Bool} (h : s.env.collisions = c :: cs) :
    s.collisionAnswer = c := by
  rw [State.collisionAnswer, h, List.headD_cons]

theorem State.request_keys (s : State) : (s.request .getCurrentKey).env.keys = s.env.keys.tail := rfl

theorem State.request_randoms (s : State) : (s.request .getRandomByte).env.randoms = s.env.randoms.tail := rfl

theorem State.request_collisions (s : State) (x y : Byte) (bytes : List Byte) :
    (s.request (.drawSprite x y bytes)).env.collisions = s.env.collisions.tail := rfl

theorem State.request_trace (s : State) (r : Request) : (s.request r).env.trace = s.env.trace ++ [.request r] := by
  rw [State.request_env, Env.afterRequest_trace]

end Answers

/-! ## The six instructions, answered -/

section Answered
variable {s : State} (hs : s.env.silent = false)
include hs

theorem exec_cls_answered : exec .cls s = .next (s.request .clearDisplay) := by
  rw [exec_cls, execCls_eq_ask, State.ask_of_answering hs, id]

theorem exec_rnd_answered (x : Reg) (nn : Byte) :
    exec (.rnd x nn) s = .next ((s.request .getRandomByte).setV x (nn &&& s.randomAnswer)) := by
  rw [exec_rnd, execRnd_eq_ask, State.ask_of_answering hs]

theorem exec_drw_answered (x y : Reg) (n : BitVec 4) :
    exec (.drw x y n) s = .next ((s.request (s.drawRequest x y n)).setV vf (flagByte s.collisionAnswer)) := by
  rw [exec_drw, execDrw_eq_ask, State.ask_of_answering hs]
  rfl

theorem exec_skp_answered (x : Reg) : exec (.skp x) s =
    .next ((s.request .getCurrentKey).skipIf (s.keyAnswer == lowNibble (s.readV x))) := by
  rw [exec_skp, execSkp_eq_ask, State.ask_of_answering hs]

theorem exec_sknp_answered (x : Reg) : exec (.sknp x) s =
    .next ((s.request .getCurrentKey).skipIf (s.keyAnswer != lowNibble (s.readV x))) := by
  rw [exec_sknp, execSknp_eq_ask, State.ask_of_answering hs]

/-- FX0A answered with the sentinel: E1 is undone (R201). -/
theorem exec_ldVxK_of_none (x : Reg) (hkey : s.keyAnswer = keyNone) :
    exec (.ldVxK x) s = .next (s.request .getCurrentKey).stay := by
  rw [exec_ldVxK, execLdVxK_eq_ask, State.ask_of_answering hs, if_pos hkey]

/-- FX0A answered with a key: the key goes to `V[X]` (R201). -/
theorem exec_ldVxK_of_key (x : Reg) (hkey : s.keyAnswer ≠ keyNone) :
    exec (.ldVxK x) s = .next ((s.request .getCurrentKey).setV x s.keyAnswer) := by
  rw [exec_ldVxK, execLdVxK_eq_ask, State.ask_of_answering hs, if_neg hkey]

end Answered

/-! ## O34 -/

/-- After a request a write of one register leaves the rest of the CORE. -/
theorem State.setV_request_keepsCoreButRegs (s : State) (r : Request) (x : Reg) (b : Byte) :
    KeepsCoreButRegs s ((s.request r).setV x b) :=
  ((s.request r).setV_keepsAllButRegs x b).1

/-- Settles O34: the request, and then nothing (R196) or one write of `V[X]` (R197). -/
theorem clearAndRandomMakeTheirRequests : Obligations.ClearAndRandomMakeTheirRequests := by
  intro s x nn hs
  refine ⟨⟨_, exec_cls_answered hs, s.request_trace _, rfl⟩,
    ⟨_, exec_rnd_answered hs x nn, s.request_trace _, ⟨s.randomAnswer, State.readV_setV_self _ _ _, ?answer⟩,
      State.setV_keepsRegsBut (s.request _) _ _, s.setV_request_keepsCoreButRegs _ _ _⟩⟩
  case answer =>
    intro b bs h
    refine ⟨State.randomAnswer_of_pending h, ?_⟩
    rw [State.setV_env, State.request_randoms, h, List.tail_cons]

/-! ## O35 -/

theorem State.length_spriteBytes (s : State) (n : Nat) : (s.spriteBytes n).length = n := by
  rw [State.spriteBytes, List.length_map, List.length_range]

theorem State.getElem_spriteBytes (s : State) (n k : Nat) (h : k < (s.spriteBytes n).length) :
    (s.spriteBytes n)[k] = s.readMem (s.ea k) := by
  simp only [State.spriteBytes, List.getElem_map, List.getElem_range]

/-- Settles O35: the draw request, and then one write of VF. -/
theorem drawSendsTheSpriteAndSetsTheFlag : Obligations.DrawSendsTheSpriteAndSetsTheFlag := by
  intro s x y n hs
  refine ⟨_, exec_drw_answered hs x y n,
    ⟨s.spriteBytes n.toNat, s.length_spriteBytes _, s.getElem_spriteBytes _, s.request_trace _⟩,
    ⟨s.collisionAnswer, State.readV_setV_self _ _ _, ?answer⟩,
    State.setV_keepsRegsBut (s.request _) _ _, s.setV_request_keepsCoreButRegs _ _ _⟩
  case answer =>
    intro c cs h
    refine ⟨State.collisionAnswer_of_pending h, ?_⟩
    rw [State.setV_env, State.drawRequest, State.request_collisions, h, List.tail_cons]

/-! ## O36 -/

theorem toNat_lowNibble (b : Byte) : (lowNibble b).toNat = b.toNat % 16 := by
  rw [lowNibble, BitVec.toNat_setWidth_of_le (by decide), BitVec.extractLsb'_toNat, Nat.shiftRight_zero]

theorem eq_lowNibble_iff (k b : Byte) : k = lowNibble b ↔ k.toNat = b.toNat % 16 := by
  rw [← BitVec.toNat_inj, toNat_lowNibble]

/-- Settles O36: the key request, and then a skip on the comparison of the whole answer with the low nibble. -/
theorem keySkipsCompareTheLowNibble : Obligations.KeySkipsCompareTheLowNibble := by
  intro s x hs
  have hkeeps (c : Bool) : KeepsAllButPc (s.request .getCurrentKey) ((s.request .getCurrentKey).skipIf c) :=
    State.skipIf_keepsAllButPc _ c
  have htail (c : Bool) : ((s.request .getCurrentKey).skipIf c).env.keys = s.env.keys.tail := by
    rw [(hkeeps c).2, State.request_keys]
  have htrace (c : Bool) :
      ((s.request .getCurrentKey).skipIf c).env.trace = s.env.trace ++ [.request .getCurrentKey] := by
    rw [(hkeeps c).2, State.request_trace]
  have hkey := eq_lowNibble_iff s.keyAnswer (s.readV x)
  exact ⟨s.keyAnswer, fun _ _ => State.keyAnswer_of_pending,
    ⟨_, exec_skp_answered hs x, htail _, State.toNat_pc_skipIf _ (beq_iff_eq.trans hkey), htrace _, (hkeeps _).1⟩,
    ⟨_, exec_sknp_answered hs x, htail _, State.toNat_pc_skipIf _ (bne_iff_ne.trans hkey.not), htrace _,
      (hkeeps _).1⟩⟩

/-! ## O37 -/

/-- Settles O37: the key request, and then one write, of `pc` or of `V[X]`. -/
theorem keyWaitStoresTheKeyOrGoesBack : Obligations.KeyWaitStoresTheKeyOrGoesBack := by
  intro s x hs
  have htail {b : Byte} {bs : List Byte} (h : s.env.keys = b :: bs) : (s.request .getCurrentKey).env.keys = bs := by
    rw [State.request_keys, h, List.tail_cons]
  refine ⟨s.keyAnswer, ?_⟩
  by_cases hkey : s.keyAnswer = keyNone
  · exact ⟨_, exec_ldVxK_of_none hs x hkey, fun _ _ h => ⟨State.keyAnswer_of_pending h, htail h⟩, s.request_trace _,
      fun _ => ⟨toNat_sub_two s.pc, (State.setPc_keepsAllButPc (s.request _) _).1⟩, fun h => absurd hkey h⟩
  · exact ⟨_, exec_ldVxK_of_key hs x hkey, fun _ _ h => ⟨State.keyAnswer_of_pending h, htail h⟩, s.request_trace _,
      fun h => absurd h hkey, fun _ => ⟨State.readV_setV_self _ _ _, State.setV_keepsRegsBut (s.request _) _ _,
        s.setV_request_keepsCoreButRegs _ _ _⟩⟩

/-! ## O38 -/

/-- On every machine, a run that goes on after `n` steps is the run from there. -/
theorem run_add (M : Host.Core) (n m : Nat) {s t : M.State} (h : M.run n s = .next t) : M.run (n + m) s = M.run m t := by
  induction n generalizing s with
  | zero =>
    cases h
    rw [Nat.zero_add]
  | succ n ih =>
    rw [Host.Core.run] at h
    split at h
    case h_1 u hu => rw [Nat.add_right_comm, run_succ_of_step M (n + m) hu, ih h]
    all_goals cases h

/-- The machine stands in an FX0A below the ceiling, and the driver steps. -/
structure State.InKeyWait (s : State) (x : Reg) : Prop where
  idle : s.env.driver = []
  below : s.pc.toNat < loadCeil
  word : s.opcodeAtPc = encode (.ldVxK x)

theorem State.InKeyWait.step_eq {s : State} {x : Reg} (h : s.InKeyWait x) : step s = exec (.ldVxK x) s.advance := by
  rw [step_of_below h.idle h.below, h.word]
  exact s.execute_encode rfl

/-- A request leaves the machine in its FX0A. -/
theorem State.InKeyWait.request {s : State} {x : Reg} (h : s.InKeyWait x) (r : Request) : (s.request r).InKeyWait x :=
  ⟨(Env.afterRequest_driver _ r).trans h.idle, h.below, h.word⟩

/-- A poll is a key request and nothing else (R201, R109). -/
theorem State.InKeyWait.step_of_none {s : State} {x : Reg} (h : s.InKeyWait x) (hs : s.env.silent = false)
    (hkey : s.keyAnswer = keyNone) : step s = .next (s.request .getCurrentKey) := by
  rw [h.step_eq, exec_ldVxK_of_none (s := s.advance) hs x hkey, State.stay_eq, State.request_pc, State.advance_eq,
    State.setPc_pc, BitVec.add_sub_cancel]
  rfl

theorem not_silent_of_lt {e : Env} {n : Nat} (h : ∀ m, e.answersLeft = some m → n < m) : e.silent = false :=
  (Env.silent_eq_false_iff e).2 fun h0 => absurd (h 0 h0) (Nat.not_lt_zero n)

/-- A request leaves one answer less. -/
theorem State.answersLeft_request {s : State} {n : Nat} (r : Request)
    (h : ∀ m, s.env.answersLeft = some m → n + 1 < m) : ∀ m, (s.request r).env.answersLeft = some m → n < m := by
  intro m hm
  rw [State.request_env, Env.afterRequest_answersLeft, Option.map_eq_some_iff] at hm
  obtain ⟨k, hk, rfl⟩ := hm
  exact Nat.lt_sub_of_add_lt (h k hk)

/-- `n` polls use up `n` sentinels and change nothing of the CORE. -/
theorem run_polls (n : Nat) {s : State} {x : Reg} {keys : List Byte} (h : s.InKeyWait x)
    (hkeys : s.env.keys = List.replicate n 0x10 ++ keys) (hleft : ∀ m, s.env.answersLeft = some m → n < m) :
    ∃ t, Host.Core.run core n s = .next t ∧ KeepsCore s t ∧ t.InKeyWait x ∧ t.env.keys = keys ∧
      ∀ m, t.env.answersLeft = some m → 0 < m := by
  induction n generalizing s with
  | zero => exact ⟨s, rfl, rfl, h, hkeys, hleft⟩
  | succ n ih =>
    rw [List.replicate_succ, List.cons_append] at hkeys
    have hstep := h.step_of_none (not_silent_of_lt hleft) (State.keyAnswer_of_pending hkeys)
    have htail : (s.request .getCurrentKey).env.keys = List.replicate n 0x10 ++ keys := by
      rw [State.request_keys, hkeys, List.tail_cons]
    obtain ⟨t, hrun, hcore, ht⟩ := ih (h.request _) htail (State.answersLeft_request _ hleft)
    exact ⟨t, (core_run_succ n hstep).trans hrun, hcore, ht⟩

/-- Settles O38: `n` polls, and then the one step that is answered with a key. -/
theorem keyWaitPollsUntilAKeyIsReported : Obligations.KeyWaitPollsUntilAKeyIsReported := by
  intro s x n key keys hidle hbelow hword hkeys hkey hleft
  obtain ⟨t, hrun, hcore, hwait, htkeys, htleft⟩ := run_polls n ⟨hidle, hbelow, hword⟩ hkeys hleft
  have hanswer : t.advance.keyAnswer = key := State.keyAnswer_of_pending htkeys
  have hstep : step t = .next ((t.advance.request .getCurrentKey).setV x key) := by
    rw [hwait.step_eq, exec_ldVxK_of_key (s := t.advance) (not_silent_of_lt htleft) x (hanswer.trans_ne hkey), hanswer]
  refine ⟨⟨t, hrun, hcore⟩, ⟨_, (run_add core n 1 hrun).trans (core_run_succ 0 hstep), ?pc,
    State.readV_setV_self _ _ _, fun r hr => ?others, ?keys⟩⟩
  case pc =>
    rw [hcore]
    rfl
  case others =>
    refine (State.readV_setV_other _ _ hr).trans ?_
    rw [hcore]
    rfl
  case keys => exact (State.request_keys t.advance).trans (congrArg List.tail htkeys)

end Sys2Proof.Machine
end

section
/-! PROOFS. The canonical form of memory is canonical (20_memory R50): obligation O56. -/

namespace Sys2Proof.Machine

theorem Memory.wfFrom_cons {lo k : Nat} {b : Byte} {m : Memory} :
    Memory.wfFrom lo ((k, b) :: m) = true ↔ lo ≤ k ∧ k < 4096 ∧ b ≠ resetByte k ∧ Memory.wfFrom (k + 1) m = true := by
  simp only [Memory.wfFrom, Bool.and_eq_true, decide_eq_true_eq, and_assoc]

@[simp] theorem Memory.find_cons_self (m : Memory) (k : Nat) (b : Byte) : Memory.find ((k, b) :: m) k = some b :=
  if_pos rfl

theorem Memory.find_cons_other (m : Memory) {k a : Nat} (b : Byte) (h : k ≠ a) :
    Memory.find ((k, b) :: m) a = Memory.find m a := if_neg h

/-- Nothing is listed below the first address. -/
theorem Memory.find_eq_none_of_lt {lo a : Nat} {m : Memory} (hm : Memory.wfFrom lo m = true) (ha : a < lo) :
    Memory.find m a = none := by
  induction m generalizing lo with
  | nil => rfl
  | cons e m ih =>
    obtain ⟨k, b⟩ := e
    obtain ⟨hlo, -, -, hm'⟩ := Memory.wfFrom_cons.1 hm
    rw [Memory.find_cons_other _ _ (by omega), ih hm' (by omega)]

/-- A listed byte is not the reset contents of its address, which is below 4096. -/
theorem Memory.listed {lo a : Nat} {b : Byte} {m : Memory} (hm : Memory.wfFrom lo m = true)
    (h : Memory.find m a = some b) : a < 4096 ∧ b ≠ resetByte a := by
  induction m generalizing lo with
  | nil => cases h
  | cons e m ih =>
    obtain ⟨k, c⟩ := e
    obtain ⟨-, hk, hc, hm'⟩ := Memory.wfFrom_cons.1 hm
    by_cases hka : k = a
    · subst hka
      rw [Memory.find_cons_self] at h
      cases h
      exact ⟨hk, hc⟩
    · rw [Memory.find_cons_other _ _ hka] at h
      exact ih hm' h

theorem Memory.read_ofNat (m : Memory) {a : Nat} (ha : a < 4096) :
    Memory.read m (BitVec.ofNat 12 a) = (Memory.find m a).getD (resetByte a) := by
  rw [Memory.read, BitVec.toNat_ofNat, Nat.mod_eq_of_lt ha]

/-- In the canonical form, what is listed can be read off memory. -/
theorem Memory.find_eq_some_iff {lo a : Nat} {b : Byte} {m : Memory} (hm : Memory.wfFrom lo m = true) :
    Memory.find m a = some b ↔ a < 4096 ∧ b ≠ resetByte a ∧ Memory.read m (BitVec.ofNat 12 a) = b := by
  constructor
  · intro h
    obtain ⟨ha, hb⟩ := Memory.listed hm h
    exact ⟨ha, hb, by rw [Memory.read_ofNat m ha, h, Option.getD_some]⟩
  · rintro ⟨ha, hb, hread⟩
    rw [Memory.read_ofNat m ha] at hread
    cases h : Memory.find m a with
    | none => exact absurd (by rw [← hread, h, Option.getD_none]) hb
    | some c => rw [← hread, h, Option.getD_some]

/-- A listed address is not below the first one. -/
theorem Memory.le_of_listed {lo a : Nat} {b : Byte} {m : Memory} (hm : Memory.wfFrom lo m = true)
    (h : Memory.find m a = some b) : lo ≤ a := by
  by_contra hlt
  rw [Memory.find_eq_none_of_lt hm (Nat.not_le.1 hlt)] at h
  cases h

/-- Lists of the canonical form that list the same bytes are equal. -/
theorem Memory.eq_of_find_eq {lo lo' : Nat} {m m' : Memory} (hm : Memory.wfFrom lo m = true)
    (hm' : Memory.wfFrom lo' m' = true) (h : ∀ a, Memory.find m a = Memory.find m' a) : m = m' := by
  induction m generalizing lo lo' m' with
  | nil =>
    cases m' with
    | nil => rfl
    | cons e' m' => cases (h e'.1).trans (Memory.find_cons_self m' e'.1 e'.2)
  | cons e m ih =>
    obtain ⟨k, b⟩ := e
    have hk := Memory.find_cons_self m k b
    obtain ⟨-, hlt, hb, htail⟩ := Memory.wfFrom_cons.1 hm
    cases m' with
    | nil => cases hk.symm.trans (h k)
    | cons e' m' =>
      obtain ⟨k', b'⟩ := e'
      have hk' := Memory.find_cons_self m' k' b'
      obtain ⟨-, hlt', hb', htail'⟩ := Memory.wfFrom_cons.1 hm'
      have hle : k ≤ k' :=
        Memory.le_of_listed (Memory.wfFrom_cons.2 ⟨le_rfl, hlt, hb, htail⟩) ((h k').trans hk')
      have hge : k' ≤ k :=
        Memory.le_of_listed (Memory.wfFrom_cons.2 ⟨le_rfl, hlt', hb', htail'⟩) ((h k).symm.trans hk)
      obtain rfl : k = k' := Nat.le_antisymm hle hge
      obtain rfl : b = b' := Option.some.inj (hk.symm.trans ((h k).trans hk'))
      refine congrArg _ (ih htail htail' fun a => ?_)
      by_cases ha : k = a
      · rw [Memory.find_eq_none_of_lt htail (by omega), Memory.find_eq_none_of_lt htail' (by omega)]
      · rw [← Memory.find_cons_other m b ha, h a, Memory.find_cons_other m' b ha]

/-- Settles O56: canonical memories that read alike list the same bytes, and so are one list. -/
theorem canonicalMemoriesThatReadAlikeAreEqual : Obligations.CanonicalMemoriesThatReadAlikeAreEqual := by
  intro s t hs ht hread
  refine Memory.eq_of_find_eq ht hs fun a => Option.ext fun b => ?_
  have hsame : Memory.read t.mem (BitVec.ofNat 12 a) = Memory.read s.mem (BitVec.ofNat 12 a) := hread _
  rw [Memory.find_eq_some_iff hs, Memory.find_eq_some_iff ht, hsame]

end Sys2Proof.Machine
end

section
/-! PROOFS. The reference mediator's draw (45_mediator_ops R191, R192, R203): a sprite of at most 32 rows plots each
pixel at most once, so a pixel goes from lit to unlit in the whole draw exactly when it does at its own plot. Obligation
O42. -/

namespace Sys2Proof.Machine

/-! ## The pixels a sprite plots -/

/-- A pixel's place on the surface. -/
abbrev Pixel := Fin 32 × Fin 64

/-- The places of a sprite byte's lit pixels, left to right. -/
def rowPixels (x y : Nat) (b : Byte) : List Pixel :=
  ((List.range 8).filter fun col => b.getLsbD (7 - col)).map fun col => (Fin.ofNat 32 y, Fin.ofNat 64 (x + col))

/-- The places of a sprite's lit pixels, row by row. -/
def spritePixels (x y : Nat) : List Byte → List Pixel
  | [] => []
  | b :: bs => rowPixels x y b ++ spritePixels x (y + 1) bs

/-- One plot at a place. -/
def Drawing.plotAt (d : Drawing) (p : Pixel) : Drawing := (d.1 || Surface.at d.2 p.1 p.2, Surface.flip d.2 p.1 p.2)

theorem Drawing.row_eq_foldl (d : Drawing) (x y : Nat) (b : Byte) :
    Drawing.row d x y b = (rowPixels x y b).foldl Drawing.plotAt d := by
  rw [rowPixels, List.foldl_map, List.foldl_filter]
  rfl

theorem Drawing.rows_eq_foldl (d : Drawing) (x y : Nat) (bytes : List Byte) :
    Drawing.rows d x y bytes = (spritePixels x y bytes).foldl Drawing.plotAt d := by
  induction bytes generalizing d y with
  | nil => rfl
  | cons b bs ih => rw [Drawing.rows, ih, Drawing.row_eq_foldl, spritePixels, List.foldl_append]

/-! ## No pixel twice -/

/-- The eight columns of a row are eight columns of the surface. -/
theorem rowPixels_nodup (x y : Nat) (b : Byte) : (rowPixels x y b).Nodup := by
  refine List.Nodup.map_on ?_ (List.nodup_range.filter _)
  intro i hi j hj h
  have hi8 : i < 8 := List.mem_range.1 (List.mem_of_mem_filter hi)
  have hj8 : j < 8 := List.mem_range.1 (List.mem_of_mem_filter hj)
  have hcol : (x + i) % 64 = (x + j) % 64 := congrArg (fun p : Pixel => p.2.val) h
  omega

theorem row_of_mem_rowPixels {x y : Nat} {b : Byte} {p : Pixel} (h : p ∈ rowPixels x y b) : p.1.val = y % 32 := by
  obtain ⟨col, -, rfl⟩ := List.mem_map.1 h
  rfl

theorem row_of_mem_spritePixels {x y : Nat} {bytes : List Byte} {p : Pixel} (h : p ∈ spritePixels x y bytes) :
    ∃ j < bytes.length, p.1.val = (y + j) % 32 := by
  induction bytes generalizing y with
  | nil => cases h
  | cons b bs ih =>
    rcases List.mem_append.1 h with hrow | hrest
    · exact ⟨0, Nat.succ_pos _, row_of_mem_rowPixels hrow⟩
    · obtain ⟨j, hj, hp⟩ := ih hrest
      exact ⟨j + 1, Nat.succ_lt_succ hj, by rw [hp, Nat.add_right_comm, Nat.add_assoc]⟩

/-- At most 32 rows are as many rows of the surface. -/
theorem spritePixels_nodup (x y : Nat) {bytes : List Byte} (h : bytes.length ≤ 32) : (spritePixels x y bytes).Nodup := by
  induction bytes generalizing y with
  | nil => exact List.nodup_nil
  | cons b bs ih =>
    rw [List.length_cons] at h
    refine List.nodup_append'.2 ⟨rowPixels_nodup x y b, ih (y + 1) (by omega), fun p hrow hrest => ?_⟩
    obtain ⟨j, hj, hp⟩ := row_of_mem_spritePixels hrest
    have hy := row_of_mem_rowPixels hrow
    omega

/-! ## The surface after a plot, and after many -/

/-- A flip changes its own pixel and no other. -/
theorem Surface.at_flip (px : Surface) (p q : Pixel) :
    Surface.at (Surface.flip px p.1 p.2) q.1 q.2 = (Surface.at px q.1 q.2 ^^ decide (q = p)) := by
  obtain ⟨r, c⟩ := p
  obtain ⟨r', c'⟩ := q
  unfold Surface.at Surface.flip
  rw [Vector.getElem_set]
  by_cases hr : r = r'
  · subst hr
    rw [if_pos rfl, Vector.getElem_set]
    by_cases hc : c = c'
    · simp [hc]
    · simp [Fin.val_ne_of_ne hc, Ne.symm hc]
  · simp [Fin.val_ne_of_ne hr, Ne.symm hr]

/-- A plot leaves the other pixels. -/
theorem Drawing.at_plotAt_other (d : Drawing) {p q : Pixel} (h : q ≠ p) :
    Surface.at (d.plotAt p).2 q.1 q.2 = Surface.at d.2 q.1 q.2 := by
  rw [Drawing.plotAt, Surface.at_flip, decide_eq_false h, Bool.xor_false]

/-- Plots at different places raise the flag exactly if one of the places was lit. -/
theorem Drawing.foldl_plotAt_flag {ps : List Pixel} (hps : ps.Nodup) (d : Drawing) :
    (ps.foldl Drawing.plotAt d).1 = true ↔ d.1 = true ∨ ∃ p ∈ ps, Surface.at d.2 p.1 p.2 = true := by
  induction ps generalizing d with
  | nil => simp
  | cons p ps ih =>
    obtain ⟨hp, hps'⟩ := List.nodup_cons.1 hps
    have hrest : (∃ q ∈ ps, Surface.at (d.plotAt p).2 q.1 q.2 = true) ↔ ∃ q ∈ ps, Surface.at d.2 q.1 q.2 = true :=
      exists_congr fun q => and_congr_right fun hq => by
        rw [d.at_plotAt_other (ne_of_mem_of_not_mem hq hp)]
    rw [List.foldl_cons, ih hps', hrest, List.exists_mem_cons_iff, ← or_assoc]
    exact or_congr_left Bool.or_eq_true_iff

/-- Plots at different places flip each of them once. -/
theorem Drawing.at_foldl_plotAt {ps : List Pixel} (hps : ps.Nodup) (d : Drawing) (q : Pixel) :
    Surface.at (ps.foldl Drawing.plotAt d).2 q.1 q.2 = (Surface.at d.2 q.1 q.2 ^^ decide (q ∈ ps)) := by
  induction ps generalizing d with
  | nil => simp
  | cons p ps ih =>
    obtain ⟨hp, hps'⟩ := List.nodup_cons.1 hps
    rw [List.foldl_cons, ih hps', Drawing.plotAt, Surface.at_flip]
    by_cases hq : q = p
    · simp [hq, hp]
    · simp [hq]

/-! ## O42 -/

/-- After a clear every pixel is unlit (R191). -/
theorem RefMediator.at_clear (m : RefMediator) (r : Fin 32) (c : Fin 64) : Surface.at m.clear.px r c = false := by
  simp [RefMediator.clear, RefMediator.initial, Surface.at]

/-- Settles O42: the draw plots different pixels, and a pixel lit before is unlit after exactly if it is one of them. -/
theorem referenceDrawReportsLitPixelsGoingOut : Obligations.ReferenceDrawReportsLitPixelsGoingOut := by
  refine ⟨RefMediator.at_clear, fun px x y bytes hlen => ?_⟩
  have hps := spritePixels_nodup x.toNat y.toNat hlen
  have hout (q : Pixel) : (q ∈ spritePixels x.toNat y.toNat bytes ∧ Surface.at px q.1 q.2 = true) ↔
      (Surface.at px q.1 q.2 = true ∧ Surface.at (Surface.draw px x y bytes).2 q.1 q.2 = false) := by
    rw [Surface.draw, Drawing.rows_eq_foldl, Drawing.at_foldl_plotAt hps, and_comm]
    refine and_congr_right fun hlit => ?_
    simp [hlit]
  rw [← Prod.exists', ← exists_congr hout, Surface.draw, Drawing.rows_eq_foldl, Drawing.foldl_plotAt_flag hps]
  simp

end Sys2Proof.Machine
end
